-- ==== Sys2Proof/Word.lean ====
section
/-! DEFINITION. The two word types of the block: a byte of the algorithm and a 32-bit bus word. -/

namespace Sys2Proof

/-- A byte, an unsigned value 0..255 (00_scope.md R10). -/
abbrev Byte := BitVec 8

/-- A 32-bit register, or the data of one bus transaction (10_state.md R23, 30_encoding.md R80). -/
abbrev Word := BitVec 32

end Sys2Proof
end

