-- ==== Sys2Proof/Config.lean ====
section
/-! DEFINITION. The parameters of 00_scope.md R8, the address map of 10_state.md R23, and the free values. -/

namespace Sys2Proof

/-- The password buffer's size, as an index: size `n` means `PW_MAX = 4 * (n + 1)` bytes, so the type holds exactly
the legal values of R8 (a multiple of 4 with `4 <= PW_MAX <= 3584`). -/
abbrev PwSize := Fin 896

/-- `PW_MAX` in bytes (R8, R35). -/
abbrev PwSize.bytes (n : PwSize) : Nat := 4 * (n.val + 1)

/-- The size `State.reset` is built at: 256 bytes, the value of the spec's examples (R8, "The examples use 256").
DESIGN CHOICE, unsafe: PW_MAX is an OPEN parameter (notes/assumptions/1.md). A state carries its own size, so a
statement over all states is a statement over every legal PW_MAX. -/
def Config.pwSize : PwSize := 63

/-- The platform's page number of the window: `BASE = 4096 * basePage` (R8: OPEN, 4096-byte aligned). A free value. -/
opaque Config.basePage : Nat

/-- `BASE`, the platform address of the register window (R8). -/
def Config.base : Nat := 4096 * Config.basePage

/-- Free value: `L(V)` for a VARIANT that is neither 5 nor 6, less one (R46: the names are defined only once START's
validation has passed; notes/assumptions/2.md). -/
opaque Config.otherDigestLen : Word → Fin 64

/-- Free value: `N(V)` for a VARIANT that is neither 5 nor 6 (notes/assumptions/2.md). -/
opaque Config.otherEncodedLen : Word → Fin 89

/-- Free value: the digest under a VARIANT that is neither 5 nor 6 (notes/assumptions/2.md). -/
opaque Config.otherDigest : Word → List Byte → Vector Byte 64

/-- Free value: the encoded field under a VARIANT that is neither 5 nor 6 (notes/assumptions/2.md). -/
opaque Config.otherEncoding : Word → List Byte → Vector Byte 88

/-- Free value: `H_5` of a message of 2^64 bits or more, for which 40_digest_engine.md R100 gives a length and R109 no
value (notes/assumptions/25.md). -/
opaque Config.overlongSha256 : List Byte → Vector Byte 32

/-- Free value: `H_6` of a message of 2^128 bits or more, for which 40_digest_engine.md R100 gives a length and R113 no
value (notes/assumptions/25.md). -/
opaque Config.overlongSha512 : List Byte → Vector Byte 64

/-! ### The address map (10_state.md R23) -/

/-- CMD, offset 0x000 (R24). -/
abbrev Config.offCmd : Nat := 0x000
/-- STATUS, offset 0x004 (R25). -/
abbrev Config.offStatus : Nat := 0x004
/-- ERRCODE, offset 0x008 (R26). -/
abbrev Config.offErrcode : Nat := 0x008
/-- INTEN, offset 0x00C (R27). -/
abbrev Config.offInten : Nat := 0x00C
/-- VARIANT, offset 0x010 (R28). -/
abbrev Config.offVariant : Nat := 0x010
/-- ROUNDS, offset 0x014 (R29). -/
abbrev Config.offRounds : Nat := 0x014
/-- PWLEN, offset 0x018 (R30). -/
abbrev Config.offPwlen : Nat := 0x018
/-- SALTLEN, offset 0x01C (R31). -/
abbrev Config.offSaltlen : Nat := 0x01C
/-- ROUNDIDX, offset 0x020 (R32). -/
abbrev Config.offRoundidx : Nat := 0x020
/-- RAWLEN, offset 0x024 (R33). -/
abbrev Config.offRawlen : Nat := 0x024
/-- ENCLEN, offset 0x028 (R34). -/
abbrev Config.offEnclen : Nat := 0x028
/-- PWMAX, offset 0x02C (R35). -/
abbrev Config.offPwmax : Nat := 0x02C
/-- The SALT buffer's first offset (R36). -/
abbrev Config.saltBase : Nat := 0x040
/-- The SALT buffer's bytes (R36). -/
abbrev Config.saltSize : Nat := 16
/-- The RAW buffer's first offset (R37). -/
abbrev Config.rawBase : Nat := 0x080
/-- The RAW buffer's bytes (R37). -/
abbrev Config.rawSize : Nat := 64
/-- The ENC buffer's first offset (R38). -/
abbrev Config.encBase : Nat := 0x0C0
/-- The ENC buffer's bytes (R38). -/
abbrev Config.encSize : Nat := 88
/-- The PW buffer's first offset (R39). -/
abbrev Config.pwBase : Nat := 0x200
/-- The width in bytes of the digest registers `int.DB` and `int.DA` (R41, R42). -/
abbrev Config.digestRegSize : Nat := 64
/-- The width in bytes of `int.SP` (R44). -/
abbrev Config.spSize : Nat := 16
/-- The reset value of ROUNDS, `ROUNDS_DEFAULT` (R8, R29). -/
abbrev Config.roundsDefault : Nat := 5000
/-- `ROUNDS_MIN` (R8). -/
abbrev Config.roundsMin : Nat := 1000
/-- `ROUNDS_MAX` (R8). -/
abbrev Config.roundsMax : Nat := 999999999
/-- `HOST_ROUNDS_CAP`, the host software's OPEN parameter: exactly the caps R8 gives it, and no other. -/
abbrev RoundsCap := { cap : Nat // Config.roundsMin ≤ cap ∧ cap ≤ Config.roundsMax }
/-- `SALT_MIN` (R8). -/
abbrev Config.saltMin : Nat := 1
/-- `SALT_MAX` (R8). -/
abbrev Config.saltMax : Nat := 16
/-- `DS_BASE_REPEAT` (R8; 90_conflicts.md C1). -/
abbrev Config.dsBaseRepeat : Nat := 16

end Sys2Proof
end

