-- ==== Sys2Proof/Syntax.lean ====
section
/-! DEFINITION. The 19 rows of spec/opcode_table.json as one inductive: five CMD words, eight classes of bus
transaction and six sequencer steps. -/

namespace Sys2Proof

/-- The four input registers a `BUS_W_INPUT_REG` transaction writes (45_commands.md R201). -/
inductive InputReg where
  /-- VARIANT, offset 0x010 -/
  | variant
  /-- ROUNDS, offset 0x014 -/
  | rounds
  /-- PWLEN, offset 0x018 -/
  | pwlen
  /-- SALTLEN, offset 0x01C -/
  | saltlen
deriving DecidableEq, Repr

/-- One constructor per row of the opcode table. `off` is the 12-bit window offset, `size` the access size in bytes,
`data` the 32 data bits (30_encoding.md R80); `w` is the index of a 32-bit word inside a buffer (R201). -/
inductive Instr where
  /-- NOP, CMD word 0x00000000 (R207) -/
  | nop
  /-- START, CMD word 0x00000001 (R208-R211) -/
  | start
  /-- ABORT, CMD word 0x00000002 (R212) -/
  | abort
  /-- CLEAR, CMD word 0x00000003 (R213) -/
  | clear
  /-- RESERVED, any other CMD word (R214) -/
  | reserved (word : Word)
  /-- BUS_W_BAD, a write of the wrong size or alignment (R200, R61) -/
  | busWBad (off : BitVec 12) (size : BitVec 8) (data : Word)
  /-- BUS_W_CMD, a write to CMD (R206) -/
  | busWCmd (data : Word)
  /-- BUS_W_INTEN, a write to INTEN (R204) -/
  | busWInten (data : Word)
  /-- BUS_W_INPUT_REG, a write to an input register (R201, R202) -/
  | busWInputReg (reg : InputReg) (data : Word)
  /-- BUS_W_SALT, a write to word `w` of the SALT buffer (R201, R202) -/
  | busWSalt (w : BitVec 2) (data : Word)
  /-- BUS_W_PW, a write to word `w` of the PW buffer (R201, R202) -/
  | busWPw (w : BitVec 10) (data : Word)
  /-- BUS_W_IGNORED, a write to a read-only register or buffer or a reserved offset (R203) -/
  | busWIgnored (off : BitVec 12) (data : Word)
  /-- BUS_R, a read of any size and alignment (R205) -/
  | busR (off : BitVec 12) (size : BitVec 8)
  /-- SEQ_DIGEST_B, phase code 1 (R231) -/
  | seqDigestB
  /-- SEQ_DIGEST_A, phase code 2 (R232) -/
  | seqDigestA
  /-- SEQ_DP, phase code 3 (R233) -/
  | seqDp
  /-- SEQ_DS, phase code 4 (R234) -/
  | seqDs
  /-- SEQ_ROUND, phase code 5 (R235) -/
  | seqRound
  /-- SEQ_ENCODE, phase code 6 (R236) -/
  | seqEncode
deriving DecidableEq, Repr

/-- The four formats of 30_encoding.md R80, R81 and R84. -/
inductive Format where
  /-- a CMD word, the data of a write to CMD (R81) -/
  | cmd
  /-- a bus write (R80) -/
  | busW
  /-- a bus read (R80) -/
  | busR
  /-- a phase code that selects an engine step (R84) -/
  | seq
deriving DecidableEq, Repr

/-- The format of each row, as the table's `format` gives it. -/
def Instr.format : Instr → Format
  | .nop => .cmd
  | .start => .cmd
  | .abort => .cmd
  | .clear => .cmd
  | .reserved _ => .cmd
  | .busWBad _ _ _ => .busW
  | .busWCmd _ => .busW
  | .busWInten _ => .busW
  | .busWInputReg _ _ => .busW
  | .busWSalt _ _ => .busW
  | .busWPw _ _ => .busW
  | .busWIgnored _ _ => .busW
  | .busR _ _ => .busR
  | .seqDigestB => .seq
  | .seqDigestA => .seq
  | .seqDp => .seq
  | .seqDs => .seq
  | .seqRound => .seq
  | .seqEncode => .seq

end Sys2Proof
end

