-- ==== Sys2Proof/WellFormed.lean ====
section
/-! DEFINITION. Which operands an instruction of the table may carry: those its `match` column admits. -/

namespace Sys2Proof

/-- An aligned offset that no other `bus.W` row takes: a read-only register or buffer, or a reserved offset
(45_commands.md R203). -/
def ignoredOffset (pw : PwSize) (o : Nat) : Bool :=
  o % 4 = 0 && o ≠ Config.offCmd && o ≠ Config.offInten &&
  o ≠ Config.offVariant && o ≠ Config.offRounds && o ≠ Config.offPwlen && o ≠ Config.offSaltlen &&
  !(Config.saltBase ≤ o && o < Config.saltBase + Config.saltSize) &&
  !(Config.pwBase ≤ o && o < Config.pwBase + pw.bytes)

/-- The instruction is one the table's `match` columns admit, on a block whose password buffer has size `pw`:
the CMD rows by 30_encoding.md R82 and R83, the bus rows by 45_commands.md R200. -/
def Instr.wf (pw : PwSize) : Instr → Bool
  | .nop => true
  | .start => true
  | .abort => true
  | .clear => true
  | .reserved word => 3 < word.toNat
  | .busWBad off size _ => off.toNat % 4 ≠ 0 || size ≠ 4
  | .busWCmd _ => true
  | .busWInten _ => true
  | .busWInputReg _ _ => true
  | .busWSalt _ _ => true
  | .busWPw w _ => w.toNat ≤ pw.val
  | .busWIgnored off _ => ignoredOffset pw off.toNat
  | .busR _ _ => true
  | .seqDigestB => true
  | .seqDigestA => true
  | .seqDp => true
  | .seqDs => true
  | .seqRound => true
  | .seqEncode => true

end Sys2Proof
end

