-- ==== Sys2Proof/Decode.lean ====
section
/-! DEFINITION. From the bytes of a packet to an instruction or a named rejection, and the encoder back.
A packet's format is told by its length, since every format is fixed-length (30_encoding.md R80, R89): one byte is
the phase code of an engine step, three bytes are a read (OFF, SIZE), four bytes are a CMD word, seven bytes are a
write (OFF, SIZE, DATA). Words are little-endian (20_memory.md R62). The layout of OFF, SIZE and DATA inside a packet
is the model's (DESIGN CHOICE, notes/assumptions/3.md); what each field means is the spec's. -/

namespace Sys2Proof

/-! ### Byte order (20_memory.md R62) -/

/-- The natural number whose bytes, least significant first, are the list. -/
def leNat : List Byte → Nat
  | [] => 0
  | b :: bs => b.toNat + 256 * leNat bs

/-- The `n` low bytes of a natural number, least significant first. -/
def leBytes : Nat → Nat → List Byte
  | 0, _ => []
  | n + 1, v => BitVec.ofNat 8 v :: leBytes n (v / 256)

/-- The four bytes of a bus word in the order of their offsets: data bits [7:0] first (R62). -/
def wordBytes (w : Word) : List Byte := leBytes 4 w.toNat

/-- The bus word that carries four bytes at rising offsets (R62). -/
def bytesWord (bs : List Byte) : Word := BitVec.ofNat 32 (leNat bs)

/-! ### The decoder -/

/-- Why a packet is no instruction. -/
inductive DecodeError where
  /-- no format has this many bytes -/
  | badLength (n : Nat)
  /-- OFF has more than its 12 bits: not an access to the 4096-byte window (20_memory.md R60) -/
  | offsetOutsideWindow (off : BitVec 16)
  /-- a phase code wider than four bits -/
  | badPhaseByte (b : Byte)
  /-- a phase code with no engine step: 0, 7, 8 (46_sequencer.md R237) or 9-15 (30_encoding.md R85) -/
  | noEngineStep (code : BitVec 4)
  /-- a packet that no host issues: a phase code ("not a host-issued word", opcode table) -/
  | notHostIssued
deriving DecidableEq, Repr

/-- The CMD word's row: the four defined words first, every other word RESERVED (30_encoding.md R82, R83;
45_commands.md R206). -/
def decodeCmd (word : Word) : Instr :=
  if word = 0x00000000 then .nop
  else if word = 0x00000001 then .start
  else if word = 0x00000002 then .abort
  else if word = 0x00000003 then .clear
  else .reserved word

/-- The row of a bus write: size and alignment first, then the offset alone (45_commands.md R200; 30_encoding.md
R80). -/
def decodeWrite (pw : PwSize) (off : BitVec 12) (size : BitVec 8) (data : Word) : Instr :=
  let o := off.toNat
  if o % 4 ≠ 0 ∨ size ≠ 4 then .busWBad off size data
  else if o = Config.offCmd then .busWCmd data
  else if o = Config.offInten then .busWInten data
  else if o = Config.offVariant then .busWInputReg .variant data
  else if o = Config.offRounds then .busWInputReg .rounds data
  else if o = Config.offPwlen then .busWInputReg .pwlen data
  else if o = Config.offSaltlen then .busWInputReg .saltlen data
  else if Config.saltBase ≤ o ∧ o < Config.saltBase + Config.saltSize then
    .busWSalt (BitVec.ofNat 2 ((o - Config.saltBase) / 4)) data
  else if Config.pwBase ≤ o ∧ o < Config.pwBase + pw.bytes then
    .busWPw (BitVec.ofNat 10 ((o - Config.pwBase) / 4)) data
  else .busWIgnored off data

/-- The engine step a phase code selects (30_encoding.md R84); codes 0, 7 and 8 select none (R237), and codes 9-15
never occur (R85). -/
def decodeSeq (code : BitVec 4) : Except DecodeError Instr :=
  if code = 1 then .ok .seqDigestB
  else if code = 2 then .ok .seqDigestA
  else if code = 3 then .ok .seqDp
  else if code = 4 then .ok .seqDs
  else if code = 5 then .ok .seqRound
  else if code = 6 then .ok .seqEncode
  else .error (.noEngineStep code)

/-- The 12-bit window offset in a packet's first two bytes; its four unused bits must be zero. -/
def decodeOff (b0 b1 : Byte) : Except DecodeError (BitVec 12) :=
  let v := leNat [b0, b1]
  if v < 4096 then .ok (BitVec.ofNat 12 v) else .error (.offsetOutsideWindow (BitVec.ofNat 16 v))

/-- The instruction of a packet, total on every list of bytes. -/
def decode (pw : PwSize) : List Byte → Except DecodeError Instr
  | [b] => if b.toNat < 16 then decodeSeq (BitVec.ofNat 4 b.toNat) else .error (.badPhaseByte b)
  | [b0, b1, size] =>
    match decodeOff b0 b1 with
    | .ok off => .ok (.busR off size)
    | .error e => .error e
  | [c0, c1, c2, c3] => .ok (decodeCmd (bytesWord [c0, c1, c2, c3]))
  | [b0, b1, size, d0, d1, d2, d3] =>
    match decodeOff b0 b1 with
    | .ok off => .ok (decodeWrite pw off size (bytesWord [d0, d1, d2, d3]))
    | .error e => .error e
  | bs => .error (.badLength bs.length)

/-- What a packet the HOST puts on the bus decodes to: a phase code is not a host-issued word. -/
def decodeHost (pw : PwSize) (bs : List Byte) : Except DecodeError Instr :=
  match decode pw bs with
  | .ok i => if i.format = .seq then .error .notHostIssued else .ok i
  | .error e => .error e

/-! ### The encoder -/

/-- The packet of a bus write (30_encoding.md R80). -/
def writePacket (off : BitVec 12) (size : BitVec 8) (data : Word) : List Byte :=
  leBytes 2 off.toNat ++ [size] ++ wordBytes data

/-- The packet of a bus read (30_encoding.md R80). -/
def readPacket (off : BitVec 12) (size : BitVec 8) : List Byte := leBytes 2 off.toNat ++ [size]

/-- The offset of an input register (10_state.md R23). -/
def InputReg.offset : InputReg → Nat
  | .variant => Config.offVariant
  | .rounds => Config.offRounds
  | .pwlen => Config.offPwlen
  | .saltlen => Config.offSaltlen

/-- The offset of word `w` of the SALT buffer (R201). -/
def saltOffset (w : BitVec 2) : Nat := Config.saltBase + 4 * w.toNat

/-- The offset of word `w` of the PW buffer (R201). -/
def pwOffset (w : BitVec 10) : Nat := Config.pwBase + 4 * w.toNat

/-- The packet of an instruction, from the same tables: R82 for the CMD rows, R80 and R23 for the bus rows, R84 for
the sequencer rows. -/
def encode : Instr → List Byte
  | .nop => wordBytes 0x00000000
  | .start => wordBytes 0x00000001
  | .abort => wordBytes 0x00000002
  | .clear => wordBytes 0x00000003
  | .reserved word => wordBytes word
  | .busWBad off size data => writePacket off size data
  | .busWCmd data => writePacket (BitVec.ofNat 12 Config.offCmd) 4 data
  | .busWInten data => writePacket (BitVec.ofNat 12 Config.offInten) 4 data
  | .busWInputReg reg data => writePacket (BitVec.ofNat 12 reg.offset) 4 data
  | .busWSalt w data => writePacket (BitVec.ofNat 12 (saltOffset w)) 4 data
  | .busWPw w data => writePacket (BitVec.ofNat 12 (pwOffset w)) 4 data
  | .busWIgnored off data => writePacket off 4 data
  | .busR off size => readPacket off size
  | .seqDigestB => [0x01]
  | .seqDigestA => [0x02]
  | .seqDp => [0x03]
  | .seqDs => [0x04]
  | .seqRound => [0x05]
  | .seqEncode => [0x06]

/-! ### Words numbered as the opcode table numbers them -/

/-- The packet of a table word. The table numbers the bits of a `cmd` row (32 bits) and of a `seq` row (one byte);
of a bus row it numbers OFF alone (two bytes), and the access is then a write of 4 bytes with DATA = 0. Words of 24
and 56 bits are whole `bus.R` and `bus.W` packets (notes/assumptions/3.md). -/
def tablePacket (nbits w : Nat) : List Byte :=
  if nbits ≤ 8 then leBytes 1 w
  else if nbits ≤ 16 then leBytes 2 w ++ [4] ++ wordBytes 0
  else if nbits ≤ 24 then leBytes 3 w
  else if nbits ≤ 32 then leBytes 4 w
  else leBytes 7 w

/-- The instruction the decoder reads from a word of the opcode table. -/
def decodeTableWord (nbits w : Nat) : Option Instr :=
  match decode Config.pwSize (tablePacket nbits w) with
  | .ok i => some i
  | .error _ => none

end Sys2Proof
end

