-- ==== Sys2Proof/Machine/State.lean ====
section
/-! DEFINITION. The state of the block as plain data, its reset value, and the reasons a step can stop
(10_state.md R20-R48). -/

namespace Sys2Proof.Machine

/-- The sequencer phase `int.phase`: the nine values of 10_state.md R40, codes in 30_encoding.md R84. Codes 9-15
have no constructor (R85). It stands in for a program counter (R22). -/
inductive Phase where
  | idle
  | digestB
  | digestA
  | dp
  | ds
  | round
  | encode
  | done
  | error
deriving DecidableEq, Repr

/-- The contents of ERRCODE: the six codes of 60_exceptions.md R251. Codes 6-15 are never written and have no
constructor. -/
inductive ErrCode where
  | none
  | invalidSalt
  | invalidRounds
  | unsupportedVariant
  | passwordTooLong
  | aborted
deriving DecidableEq, Repr

/-- What the block last answered on the bus (30_encoding.md R80: the response of a `bus.R` is DATA or a bus error;
45_commands.md R200: a bad write gets a bus error). -/
inductive BusResponse where
  /-- no transaction since reset -/
  | idle
  /-- a write was accepted -/
  | accepted
  /-- a read returned this word -/
  | data (w : Word)
  /-- the bus error response of 20_memory.md R61 -/
  | busError
deriving DecidableEq, Repr

/-- One event of the interleaving (20_memory.md R69, 70_reset_and_hazards.md R280). -/
inductive Event where
  /-- the host puts this packet on the bus -/
  | host (packet : List Byte)
  /-- the engine takes its step, if its phase enables one -/
  | engine
  /-- the reset input is asserted -/
  | reset
deriving DecidableEq, Repr

/-- Bytes by address, as (address, byte) pairs: addresses strictly rising, no byte zero. An address that is not
listed reads as 0, the reset contents of every buffer and internal register (10_state.md R48). -/
abbrev Memory := List Host.Cell

/-- Every piece of state the spec gives the block, the bus response port, and the events still to come. -/
structure State where
  /-- `int.phase` (R40) -/
  phase : Phase
  /-- STATUS.CMDERR, sticky (R25) -/
  cmderr : Bool
  /-- STATUS.WERR, sticky (R25) -/
  werr : Bool
  /-- ERRCODE (R26) -/
  errcode : ErrCode
  /-- INTEN.IE, the one bit of INTEN that is stored (R27) -/
  ie : Bool
  /-- VARIANT (R28) -/
  variant : Word
  /-- ROUNDS (R29) -/
  rounds : Word
  /-- PWLEN (R30) -/
  pwlen : Word
  /-- SALTLEN (R31) -/
  saltlen : Word
  /-- ROUNDIDX (R32) -/
  roundidx : Word
  /-- RAWLEN (R33) -/
  rawlen : Word
  /-- ENCLEN (R34) -/
  enclen : Word
  /-- PWMAX, a constant no event changes (R35) -/
  pwSize : PwSize
  /-- the SALT, RAW, ENC and PW buffers by window offset (R36-R39, R62) -/
  mem : Memory
  /-- `int.DB`, 64 bytes (R41) -/
  db : Memory
  /-- `int.DA`, 64 bytes (R42) -/
  da : Memory
  /-- `int.PP`, PW_MAX bytes (R43) -/
  pp : Memory
  /-- `int.SP`, 16 bytes (R44) -/
  sp : Memory
  /-- `int.ACC`, the Digest Engine's accumulator (R45) -/
  acc : List Byte
  /-- the MODEL's own field: what the block last answered on the bus (R80) -/
  response : BusResponse
  /-- the MODEL's own field: the events still to come, in their order (R69) -/
  events : List Event
deriving DecidableEq, Repr

/-- The block after reset, for a password buffer of any legal size, with nothing left to happen
(10_state.md R48). -/
def State.resetAt (pw : PwSize) : State where
  phase := .idle
  cmderr := false
  werr := false
  errcode := .none
  ie := false
  variant := 0
  rounds := BitVec.ofNat 32 Config.roundsDefault
  pwlen := 0
  saltlen := 0
  roundidx := 0
  rawlen := 0
  enclen := 0
  pwSize := pw
  mem := []
  db := []
  da := []
  pp := []
  sp := []
  acc := []
  response := .idle
  events := []

/-- The block right after reset, at the size of the spec's examples (R48; notes/assumptions/1.md). -/
def State.reset : State := State.resetAt Config.pwSize

/-- No event stops the block: it has no trap (60_exceptions.md R250), a bad access gets a bus error response and
changes no state (R252), and no engine step can fail (R251). So there is no fault, and this type is empty. -/
inductive Fault where
deriving DecidableEq, Repr

/-- The reasons a step is refused. -/
inductive Refusal where
  /-- Raised by `exec`'s arm of an instruction with no meaning yet. Safe: the model stops where the block goes on. -/
  | notModelled (mnemonic : String)
  /-- Raised by `step` when the next host packet is no transaction of 30_encoding.md R80: the spec gives it no effect.
  Safe: nothing is claimed of such a packet. -/
  | undecodable (reason : DecodeError)
deriving DecidableEq, Repr

end Sys2Proof.Machine
end

