-- ==== Sys2Proof/Machine/Flags.lean ====
section
/-! DEFINITION. STATUS, the interrupt output and the register values a host reads (10_state.md R25-R35, R47;
60_exceptions.md R251, R256). Nothing here is stored: each is computed from the state. -/

namespace Sys2Proof.Machine

/-- BUSY: the phase is one of DIGEST_B, DIGEST_A, DP, DS, ROUND, ENCODE (R25). -/
def Phase.busy : Phase → Bool
  | .idle => false
  | .digestB => true
  | .digestA => true
  | .dp => true
  | .ds => true
  | .round => true
  | .encode => true
  | .done => false
  | .error => false

/-- The phase code (30_encoding.md R84). -/
def Phase.code : Phase → BitVec 4
  | .idle => 0
  | .digestB => 1
  | .digestA => 2
  | .dp => 3
  | .ds => 4
  | .round => 5
  | .encode => 6
  | .done => 7
  | .error => 8

/-- The phase of a code; codes 9-15 have none (R85). -/
def Phase.ofCode (c : BitVec 4) : Option Phase :=
  if c = 0 then some .idle
  else if c = 1 then some .digestB
  else if c = 2 then some .digestA
  else if c = 3 then some .dp
  else if c = 4 then some .ds
  else if c = 5 then some .round
  else if c = 6 then some .encode
  else if c = 7 then some .done
  else if c = 8 then some .error
  else none

/-- The numeric value of an error code (R251). -/
def ErrCode.code : ErrCode → BitVec 4
  | .none => 0
  | .invalidSalt => 1
  | .invalidRounds => 2
  | .unsupportedVariant => 3
  | .passwordTooLong => 4
  | .aborted => 5

/-- `BUSY` of the block. -/
def State.busy (s : State) : Bool := s.phase.busy

/-- The level of the interrupt output: `INTEN[0] ∧ (phase = DONE ∨ phase = ERROR)` (R256). -/
def State.irq (s : State) : Bool := s.ie && (s.phase = .done || s.phase = .error)

/-- STATUS as read, field by field from bit 31 down (R25): [31:13] 0, IRQ, PHASE, [7:5] 0, WERR, CMDERR, ERR, DONE,
BUSY. -/
def State.status (s : State) : Word :=
  (0 : BitVec 19) ++ BitVec.ofBool s.irq ++ s.phase.code ++ (0 : BitVec 3) ++ BitVec.ofBool s.werr ++
    BitVec.ofBool s.cmderr ++ BitVec.ofBool (s.phase = .error) ++ BitVec.ofBool (s.phase = .done) ++
    BitVec.ofBool s.busy

/-- ERRCODE as read: the code in bits [3:0], zero above (R26). -/
def State.errcodeWord (s : State) : Word := (0 : BitVec 28) ++ s.errcode.code

/-- INTEN as read: IE in bit 0, zero above (R27). -/
def State.intenWord (s : State) : Word := (0 : BitVec 31) ++ BitVec.ofBool s.ie

/-- PWMAX as read (R35). -/
def State.pwmaxWord (s : State) : Word := BitVec.ofNat 32 s.pwSize.bytes

end Sys2Proof.Machine
end

