-- ==== Sys2Proof/Machine/Sha2.lean ====
section
/-! DEFINITION. SHA-256 and SHA-512 as 40_digest_engine.md R109-R116 transcribe them from FIPS 180-4: one hash over
a word width `w`, and the two parameter sets. -/

namespace Sys2Proof.Machine

/-- What distinguishes SHA-256 from SHA-512: the length field, the rotation and shift counts, and the constants. -/
structure Sha2 (w : Nat) where
  /-- bytes of the length field: 8 (R109) or 16 (R113) -/
  lenBytes : Nat
  /-- the rotations of Σ0 -/
  sum0 : Nat × Nat × Nat
  /-- the rotations of Σ1 -/
  sum1 : Nat × Nat × Nat
  /-- the two rotations and the shift of σ0 -/
  sigma0 : Nat × Nat × Nat
  /-- the two rotations and the shift of σ1 -/
  sigma1 : Nat × Nat × Nat
  /-- the round constants K -/
  k : List (BitVec w)
  /-- the initial value H^(0) -/
  h0 : List (BitVec w)

/-- The eight working variables `a .. h` (R111). -/
structure ShaVars (w : Nat) where
  a : BitVec w
  b : BitVec w
  c : BitVec w
  d : BitVec w
  e : BitVec w
  f : BitVec w
  g : BitVec w
  h : BitVec w

/-- A word read from bytes, most significant first (R109). -/
def beWord (w : Nat) (bs : List Byte) : BitVec w :=
  BitVec.ofNat w (bs.foldl (fun n b => 256 * n + b.toNat) 0)

/-- The `n` low bytes of a natural number, most significant first (`BE64`, `BE128` of R109 and R113; the output
words of R111 and R115). -/
def beBytes (n v : Nat) : List Byte := ((List.range n).map fun j => BitVec.ofNat 8 (v / 256 ^ j)).reverse

/-- `Σ`: three rotations (R110, R114). -/
def shaSum {w : Nat} (r : Nat × Nat × Nat) (x : BitVec w) : BitVec w :=
  x.rotateRight r.1 ^^^ x.rotateRight r.2.1 ^^^ x.rotateRight r.2.2

/-- `σ`: two rotations and a logical shift (R110, R114). -/
def shaSigma {w : Nat} (r : Nat × Nat × Nat) (x : BitVec w) : BitVec w :=
  x.rotateRight r.1 ^^^ x.rotateRight r.2.1 ^^^ (x >>> r.2.2)

/-- `Ch(x,y,z)` (R110). -/
def shaCh {w : Nat} (x y z : BitVec w) : BitVec w := (x &&& y) ^^^ (~~~x &&& z)

/-- `Maj(x,y,z)` (R110). -/
def shaMaj {w : Nat} (x y z : BitVec w) : BitVec w := (x &&& y) ^^^ (x &&& z) ^^^ (y &&& z)

/-- The block size in bytes: 16 words of `w` bits (R109: 64, R113: 128). -/
def shaBlockBytes (w : Nat) : Nat := 2 * w

/-- The number of zero bytes of the padding: the least `k` with `(len + 1 + k) mod block = block - lenBytes`
(R109, R113). -/
def Sha2.zeroPad {w : Nat} (c : Sha2 w) (len : Nat) : Nat :=
  (2 * shaBlockBytes w - c.lenBytes - 1 - len % shaBlockBytes w) % shaBlockBytes w

/-- `m ‖ 0x80 ‖ 0x00^k ‖ BE(8 * len(m))`, for a message whose bit length fits the length field (R109, R113); `sha256` and
`sha512` apply it to no other. -/
def Sha2.pad {w : Nat} (c : Sha2 w) (m : List Byte) : List Byte :=
  m ++ 0x80 :: (List.replicate (c.zeroPad m.length) 0 ++ beBytes c.lenBytes (8 * m.length))

/-- The first `k` pieces of `n` elements each. -/
def chunks {α : Type} (n : Nat) : Nat → List α → List (List α)
  | 0, _ => []
  | k + 1, xs => xs.take n :: chunks n k (xs.drop n)

/-- `n` further words of the message schedule, the newest first in `ws`:
`W_t = σ1(W_{t-2}) + W_{t-7} + σ0(W_{t-15}) + W_{t-16}` (R110, R114). -/
def Sha2.schedule {w : Nat} (c : Sha2 w) : Nat → List (BitVec w) → List (BitVec w)
  | 0, ws => ws.reverse
  | n + 1, ws =>
    c.schedule n
      ((shaSigma c.sigma1 (ws.getD 1 0) + ws.getD 6 0 + shaSigma c.sigma0 (ws.getD 14 0) + ws.getD 15 0) :: ws)

/-- One round of the compression function with `(K_t, W_t)` (R111). -/
def Sha2.round {w : Nat} (c : Sha2 w) (v : ShaVars w) (kw : BitVec w × BitVec w) : ShaVars w :=
  let t1 := v.h + shaSum c.sum1 v.e + shaCh v.e v.f v.g + kw.1 + kw.2
  let t2 := shaSum c.sum0 v.a + shaMaj v.a v.b v.c
  ⟨t1 + t2, v.a, v.b, v.c, v.d + t1, v.e, v.f, v.g⟩

/-- The working variables as the list `a .. h`. -/
def ShaVars.toList {w : Nat} (v : ShaVars w) : List (BitVec w) := [v.a, v.b, v.c, v.d, v.e, v.f, v.g, v.h]

/-- The working variables from the words `H0 .. H7`. -/
def ShaVars.ofList {w : Nat} (l : List (BitVec w)) : ShaVars w :=
  ⟨l.getD 0 0, l.getD 1 0, l.getD 2 0, l.getD 3 0, l.getD 4 0, l.getD 5 0, l.getD 6 0, l.getD 7 0⟩

/-- The compression function on one block, as many rounds as there are constants: 64 (R111) or 80 (R115). -/
def Sha2.compress {w : Nat} (c : Sha2 w) (h : List (BitVec w)) (block : List Byte) : List (BitVec w) :=
  let m := (chunks (w / 8) 16 block).map (beWord w)
  let ws := c.schedule (c.k.length - 16) m.reverse
  List.zipWith (· + ·) h ((c.k.zip ws).foldl c.round (ShaVars.ofList h)).toList

/-- The whole hash: pad, cut into blocks, compress each in turn, and put the words out most significant byte first
(R109-R111, R113-R115). -/
def Sha2.hash {w : Nat} (c : Sha2 w) (m : List Byte) : List Byte :=
  let x := c.pad m
  ((chunks (shaBlockBytes w) (x.length / shaBlockBytes w) x).foldl c.compress c.h0).flatMap fun h =>
    beBytes (w / 8) h.toNat

/-- SHA-256: the functions of R110 and the constants of R112. -/
def sha256Params : Sha2 32 where
  lenBytes := 8
  sum0 := (2, 13, 22)
  sum1 := (6, 11, 25)
  sigma0 := (7, 18, 3)
  sigma1 := (17, 19, 10)
  k :=
    [0x428a2f98#32, 0x71374491#32, 0xb5c0fbcf#32, 0xe9b5dba5#32, 0x3956c25b#32, 0x59f111f1#32, 0x923f82a4#32, 0xab1c5ed5#32,
    0xd807aa98#32, 0x12835b01#32, 0x243185be#32, 0x550c7dc3#32, 0x72be5d74#32, 0x80deb1fe#32, 0x9bdc06a7#32, 0xc19bf174#32,
    0xe49b69c1#32, 0xefbe4786#32, 0x0fc19dc6#32, 0x240ca1cc#32, 0x2de92c6f#32, 0x4a7484aa#32, 0x5cb0a9dc#32, 0x76f988da#32,
    0x983e5152#32, 0xa831c66d#32, 0xb00327c8#32, 0xbf597fc7#32, 0xc6e00bf3#32, 0xd5a79147#32, 0x06ca6351#32, 0x14292967#32] ++
    [0x27b70a85#32, 0x2e1b2138#32, 0x4d2c6dfc#32, 0x53380d13#32, 0x650a7354#32, 0x766a0abb#32, 0x81c2c92e#32, 0x92722c85#32,
    0xa2bfe8a1#32, 0xa81a664b#32, 0xc24b8b70#32, 0xc76c51a3#32, 0xd192e819#32, 0xd6990624#32, 0xf40e3585#32, 0x106aa070#32,
    0x19a4c116#32, 0x1e376c08#32, 0x2748774c#32, 0x34b0bcb5#32, 0x391c0cb3#32, 0x4ed8aa4a#32, 0x5b9cca4f#32, 0x682e6ff3#32,
    0x748f82ee#32, 0x78a5636f#32, 0x84c87814#32, 0x8cc70208#32, 0x90befffa#32, 0xa4506ceb#32, 0xbef9a3f7#32, 0xc67178f2#32]
  h0 := [0x6a09e667#32, 0xbb67ae85#32, 0x3c6ef372#32, 0xa54ff53a#32, 0x510e527f#32, 0x9b05688c#32, 0x1f83d9ab#32, 0x5be0cd19#32]

/-- SHA-512: the functions of R114 and the constants of R116. -/
def sha512Params : Sha2 64 where
  lenBytes := 16
  sum0 := (28, 34, 39)
  sum1 := (14, 18, 41)
  sigma0 := (1, 8, 7)
  sigma1 := (19, 61, 6)
  k :=
    [0x428a2f98d728ae22#64, 0x7137449123ef65cd#64, 0xb5c0fbcfec4d3b2f#64, 0xe9b5dba58189dbbc#64,
    0x3956c25bf348b538#64, 0x59f111f1b605d019#64, 0x923f82a4af194f9b#64, 0xab1c5ed5da6d8118#64,
    0xd807aa98a3030242#64, 0x12835b0145706fbe#64, 0x243185be4ee4b28c#64, 0x550c7dc3d5ffb4e2#64,
    0x72be5d74f27b896f#64, 0x80deb1fe3b1696b1#64, 0x9bdc06a725c71235#64, 0xc19bf174cf692694#64,
    0xe49b69c19ef14ad2#64, 0xefbe4786384f25e3#64, 0x0fc19dc68b8cd5b5#64, 0x240ca1cc77ac9c65#64] ++
    [0x2de92c6f592b0275#64, 0x4a7484aa6ea6e483#64, 0x5cb0a9dcbd41fbd4#64, 0x76f988da831153b5#64,
    0x983e5152ee66dfab#64, 0xa831c66d2db43210#64, 0xb00327c898fb213f#64, 0xbf597fc7beef0ee4#64,
    0xc6e00bf33da88fc2#64, 0xd5a79147930aa725#64, 0x06ca6351e003826f#64, 0x142929670a0e6e70#64,
    0x27b70a8546d22ffc#64, 0x2e1b21385c26c926#64, 0x4d2c6dfc5ac42aed#64, 0x53380d139d95b3df#64,
    0x650a73548baf63de#64, 0x766a0abb3c77b2a8#64, 0x81c2c92e47edaee6#64, 0x92722c851482353b#64] ++
    [0xa2bfe8a14cf10364#64, 0xa81a664bbc423001#64, 0xc24b8b70d0f89791#64, 0xc76c51a30654be30#64,
    0xd192e819d6ef5218#64, 0xd69906245565a910#64, 0xf40e35855771202a#64, 0x106aa07032bbd1b8#64,
    0x19a4c116b8d2d0c8#64, 0x1e376c085141ab53#64, 0x2748774cdf8eeb99#64, 0x34b0bcb5e19b48a8#64,
    0x391c0cb3c5c95a63#64, 0x4ed8aa4ae3418acb#64, 0x5b9cca4f7763e373#64, 0x682e6ff3d6b2b8a3#64,
    0x748f82ee5defb2fc#64, 0x78a5636f43172f60#64, 0x84c87814a1f0ab72#64, 0x8cc702081a6439ec#64] ++
    [0x90befffa23631e28#64, 0xa4506cebde82bde9#64, 0xbef9a3f7b2c67915#64, 0xc67178f2e372532b#64,
    0xca273eceea26619c#64, 0xd186b8c721c0c207#64, 0xeada7dd6cde0eb1e#64, 0xf57d4f7fee6ed178#64,
    0x06f067aa72176fba#64, 0x0a637dc5a2c898a6#64, 0x113f9804bef90dae#64, 0x1b710b35131c471b#64,
    0x28db77f523047d84#64, 0x32caab7b40c72493#64, 0x3c9ebe0a15c9bebc#64, 0x431d67c49c100d4c#64,
    0x4cc5d4becb3e42b6#64, 0x597f299cfc657e2a#64, 0x5fcb6fab3ad6faec#64, 0x6c44198c4a475817#64]
  h0 := [0x6a09e667f3bcc908#64, 0xbb67ae8584caa73b#64, 0x3c6ef372fe94f82b#64, 0xa54ff53a5f1d36f1#64,
    0x510e527fade682d1#64, 0x9b05688c2b3e6c1f#64, 0x1f83d9abfb41bd6b#64, 0x5be0cd19137e2179#64]

/-- SHA-256 (R109-R112). DESIGN CHOICE, safe: for a message of 2^64 bits or more, which R100 gives a digest and R109 no
padding, a free value (notes/assumptions/25.md). -/
def sha256 (m : List Byte) : List Byte :=
  if 8 * m.length < 2 ^ 64 then sha256Params.hash m else (Config.overlongSha256 m).toList

/-- SHA-512 (R113-R116). DESIGN CHOICE, safe: for a message of 2^128 bits or more, which R100 gives a digest and R113 no
padding, a free value (notes/assumptions/25.md). -/
def sha512 (m : List Byte) : List Byte :=
  if 8 * m.length < 2 ^ 128 then sha512Params.hash m else (Config.overlongSha512 m).toList

end Sys2Proof.Machine
end

