-- ==== Sys2Proof/Machine/Digest.lean ====
section
/-! DEFINITION. The primitive a variant selects, and its two lengths (00_scope.md R2, 40_digest_engine.md R100). For
a VARIANT that is neither 5 nor 6 the spec defines none of them: each is a free value of Config
(notes/assumptions/2.md). -/

namespace Sys2Proof.Machine

/-- `L(V)`, the digest length in bytes (R2). -/
def digestLen (v : Word) : Nat :=
  if v = 5 then 32 else if v = 6 then 64 else (Config.otherDigestLen v).val + 1

/-- `N(V)`, the encoded length in characters (R2). -/
def encodedLen (v : Word) : Nat :=
  if v = 5 then 43 else if v = 6 then 86 else (Config.otherEncodedLen v).val

/-- `H_V(m)`: SHA-256 for variant 5, SHA-512 for variant 6 (R100). -/
def digest (v : Word) (m : List Byte) : List Byte :=
  if v = 5 then sha256 m
  else if v = 6 then sha512 m
  else (Config.otherDigest v m).toList.take (digestLen v)

end Sys2Proof.Machine
end

