-- ==== Sys2Proof/Machine/Ops.lean ====
section
/-! DEFINITION. The named operations over memory, the internal registers, the Digest Engine and the error entry. -/

namespace Sys2Proof.Machine

/-! ### Bytes by address -/

/-- The byte at an address; an address that is not listed reads 0 (10_state.md R48, 20_memory.md R64). -/
def Memory.read : Memory → Nat → Byte
  | [], _ => 0
  | (k, b) :: m, a => if k = a then b else Memory.read m a

/-- A pair put before the first listed address above its own. -/
def Memory.insert : Memory → Nat → Byte → Memory
  | [], a, b => [(a, b)]
  | (k, c) :: m, a, b => if a < k then (a, b) :: (k, c) :: m else (k, c) :: Memory.insert m a b

/-- A byte written at an address. Writing 0 removes the entry, so that equal memories are equal lists. -/
def Memory.write (m : Memory) (a : Nat) (b : Byte) : Memory :=
  let rest := m.filter fun c => c.1 ≠ a
  if b = 0 then rest else Memory.insert rest a b

/-- Bytes written at rising addresses from `base`. -/
def Memory.writeBytes : Memory → Nat → List Byte → Memory
  | m, _, [] => m
  | m, base, b :: bs => Memory.writeBytes (Memory.write m base b) (base + 1) bs

/-- The `n` bytes from `base`, in rising order of address. -/
def Memory.bytes (m : Memory) (base n : Nat) : List Byte :=
  (List.range n).map fun k => m.read (base + k)

/-- The addresses `base .. base + n - 1` zeroed. -/
def Memory.erase (m : Memory) (base n : Nat) : Memory :=
  m.filter fun c => !(base ≤ c.1 && c.1 < base + n)

/-- The 32-bit word at an offset: data bits [7:0] carry the byte at the offset itself (20_memory.md R62). -/
def Memory.word (m : Memory) (o : Nat) : Word := bytesWord (m.bytes o 4)

/-- The canonical form: addresses strictly rising, and no listed byte equal to what an unlisted address reads. -/
def Memory.wf : Memory → Bool
  | [] => true
  | (k, b) :: m => b ≠ 0 && m.all (fun c => k < c.1) && Memory.wf m

/-- Every listed address lies below `n`: the contents of a register or buffer of `n` bytes. -/
def Memory.within (m : Memory) (n : Nat) : Bool := m.all fun c => c.1 < n

/-- A byte sequence placed at index 0 of an internal register that is `width` bytes wide (10_state.md R41-R44). -/
def Memory.load (m : Memory) (width : Nat) (bs : List Byte) : Memory := m.writeBytes 0 (bs.take width)

/-! ### The bus response -/

/-- The block answers a host transaction (30_encoding.md R80). -/
def State.respond (s : State) (r : BusResponse) : State := { s with response := r }

/-! ### The Digest Engine (40_digest_engine.md R102-R106) -/

/-- `reset()`: `int.ACC <- ε` (R103). -/
def State.engineReset (s : State) : State := { s with acc := [] }

/-- `append(X)`: `int.ACC <- int.ACC ‖ X` (R104). -/
def State.engineAppend (s : State) (x : List Byte) : State := { s with acc := s.acc ++ x }

/-- `finalize()`: the digest of `int.ACC` under the variant, and the implicit reset (R105). -/
def State.engineFinalize (s : State) : List Byte × State := (digest s.variant s.acc, { s with acc := [] })

/-- `reset(); append(X1); …; append(Xk); finalize()`, how a step computes each `H(…)` (R106, R230). -/
def State.hashParts (s : State) (parts : List (List Byte)) : List Byte × State :=
  (parts.foldl State.engineAppend s.engineReset).engineFinalize

/-! ### Wiping and the error entry -/

/-- `int.DB, int.DA, int.PP, int.SP <- all zero; int.ACC <- ε` (R212, R236, R259). -/
def State.wipeInternals (s : State) : State := { s with db := [], da := [], pp := [], sp := [], acc := [] }

/-- The part of START that zeroes ROUNDIDX, RAWLEN, ENCLEN and the RAW and ENC buffers (R210, R211). -/
def State.wipeOutputs (s : State) : State :=
  { s with
    roundidx := 0, rawlen := 0, enclen := 0,
    mem := (s.mem.erase Config.rawBase Config.rawSize).erase Config.encBase Config.encSize }

/-- Error entry, `raise E(code)`: the block has no trap; ERRCODE takes the code, the internals are wiped and the
phase becomes ERROR (60_exceptions.md R259). ERROR is left by START, CLEAR or reset, and nothing is resumed (R260). -/
def State.raiseError (s : State) (code : ErrCode) : State :=
  { s.wipeInternals with errcode := code, phase := .error }

/-- What CLEAR does when the block is not BUSY: everything takes its reset value but INTEN and PWMAX (R213). -/
def State.clearAll (s : State) : State :=
  { State.resetAt s.pwSize with ie := s.ie, response := s.response, events := s.events }

/-- The reset event: every register, buffer and internal state takes its reset value, in every phase
(70_reset_and_hazards.md R280). The events still to come are not the block's. -/
def State.hardReset (s : State) : State := { State.resetAt s.pwSize with events := s.events }

end Sys2Proof.Machine
end

