-- ==== Sys2Proof/Machine/Operands.lean ====
section
/-! DEFINITION. The operands of START and of the engine steps (10_state.md R46, 30_encoding.md R88), START's
validation (45_commands.md R209, R210), and the value a read of each offset returns (R205). -/

namespace Sys2Proof.Machine

/-- The PW buffer's bytes `buf[PW][0..PW_MAX-1]` (R39). -/
def State.pwBuffer (s : State) : List Byte := s.mem.bytes Config.pwBase s.pwSize.bytes

/-- The SALT buffer's bytes `buf[SALT][0..15]` (R36). -/
def State.saltBuffer (s : State) : List Byte := s.mem.bytes Config.saltBase Config.saltSize

/-- The RAW buffer's bytes `buf[RAW][0..63]` (R37). -/
def State.rawBuffer (s : State) : List Byte := s.mem.bytes Config.rawBase Config.rawSize

/-- The ENC buffer's bytes `buf[ENC][0..87]` (R38). -/
def State.encBuffer (s : State) : List Byte := s.mem.bytes Config.encBase Config.encSize

/-- `P = buf[PW][0..p-1]` (R46). -/
def State.password (s : State) : List Byte := s.pwBuffer.take s.pwlen.toNat

/-- `S = buf[SALT][0..s-1]` (R46). -/
def State.salt (s : State) : List Byte := s.saltBuffer.take s.saltlen.toNat

/-- `L = L(V)` (R46). -/
def State.len (s : State) : Nat := digestLen s.variant

/-- `int.DB[0..L-1]`: Digest B (R41). -/
def State.digestBReg (s : State) : List Byte := (s.db.bytes 0 Config.digestRegSize).take s.len

/-- `int.DA[0..L-1]`: the current digest (R42). -/
def State.digestAReg (s : State) : List Byte := (s.da.bytes 0 Config.digestRegSize).take s.len

/-- `int.PP[0..p-1]`: P' (R43). -/
def State.ppReg (s : State) : List Byte := (s.pp.bytes 0 s.pwSize.bytes).take s.pwlen.toNat

/-- `int.SP[0..s-1]`: S' (R44). -/
def State.spReg (s : State) : List Byte := (s.sp.bytes 0 Config.spSize).take s.saltlen.toNat

/-! ### START's validation -/

/-- `isSaltChar(c)`: exactly the bytes of `[A-Za-z0-9./]` (R209, R171). -/
def isSaltChar (c : Byte) : Bool :=
  let n := c.toNat
  (0x41 ≤ n && n ≤ 0x5A) || (0x61 ≤ n && n ≤ 0x7A) || (0x30 ≤ n && n ≤ 0x39) || n = 0x2E || n = 0x2F

/-- `saltLenOK` (R209). -/
def State.saltLenOK (s : State) : Bool := Config.saltMin ≤ s.saltlen.toNat && s.saltlen.toNat ≤ Config.saltMax

/-- `saltCharOK` (R209). -/
def State.saltCharOK (s : State) : Bool := s.salt.all isSaltChar

/-- `roundsOK`, ROUNDS read unsigned (R209). -/
def State.roundsOK (s : State) : Bool := Config.roundsMin ≤ s.rounds.toNat && s.rounds.toNat ≤ Config.roundsMax

/-- `variantOK` (R209). -/
def State.variantOK (s : State) : Bool := s.variant = 5 || s.variant = 6

/-- `pwOK` (R209). -/
def State.pwOK (s : State) : Bool := s.pwlen.toNat ≤ s.pwSize.bytes

/-- The error START reports: the first failing check, or none (R210, R258). -/
def State.startError (s : State) : ErrCode :=
  if !s.saltLenOK then .invalidSalt
  else if !s.saltCharOK then .invalidSalt
  else if !s.roundsOK then .invalidRounds
  else if !s.variantOK then .unsupportedVariant
  else if !s.pwOK then .passwordTooLong
  else .none

/-! ### Reading the window -/

/-- The word at an aligned offset, as a host reads it (R205). CMD and PW are write-only and read 0; so does every
reserved offset (20_memory.md R64). -/
def State.readOffset (s : State) (o : Nat) : Word :=
  if o = Config.offCmd then 0
  else if o = Config.offStatus then s.status
  else if o = Config.offErrcode then s.errcodeWord
  else if o = Config.offInten then s.intenWord
  else if o = Config.offVariant then s.variant
  else if o = Config.offRounds then s.rounds
  else if o = Config.offPwlen then s.pwlen
  else if o = Config.offSaltlen then s.saltlen
  else if o = Config.offRoundidx then s.roundidx
  else if o = Config.offRawlen then s.rawlen
  else if o = Config.offEnclen then s.enclen
  else if o = Config.offPwmax then s.pwmaxWord
  else if Config.saltBase ≤ o ∧ o < Config.saltBase + Config.saltSize then s.mem.word o
  else if Config.rawBase ≤ o ∧ o < Config.rawBase + Config.rawSize then s.mem.word o
  else if Config.encBase ≤ o ∧ o < Config.encBase + Config.encSize then s.mem.word o
  else 0

/-- A bus access the block accepts: 4 bytes wide at a multiple of 4 (20_memory.md R61). -/
def accessOK (off : BitVec 12) (size : BitVec 8) : Bool := off.toNat % 4 = 0 && size = 4

end Sys2Proof.Machine
end

