-- ==== Sys2Proof/Machine/BusRead.lean ====
section
/-! DEFINITION. The bus read (45_commands.md R205). -/

namespace Sys2Proof.Machine

/-- BUS_R: the word at the offset, or a bus error for a wrong size or alignment; no side effect either way (R205, R61,
R66). -/
def execBusR (off : BitVec 12) (size : BitVec 8) (s : State) : Host.Outcome State Fault Refusal :=
  if accessOK off size then .next (s.respond (.data (s.readOffset off.toNat)))
  else .next (s.respond .busError)

end Sys2Proof.Machine
end

