-- ==== Sys2Proof/Machine/Command.lean ====
section
/-! DEFINITION. The five CMD rows (45_commands.md R206-R214). A command reaches the block as the data of a bus write to
CMD, so each answers that write. Each is one indivisible event (20_memory.md R68). -/

namespace Sys2Proof.Machine

/-- NOP: no state change, in every phase (R207). -/
def execNop (s : State) : Host.Outcome State Fault Refusal := .next (s.respond .accepted)

/-- START. While BUSY it sets CMDERR alone (R208). Otherwise the outputs are zeroed, and either the first failing
check is raised (R210, R259) or the phase becomes DIGEST_B with ERRCODE 0 (R211). -/
def execStart (s : State) : Host.Outcome State Fault Refusal :=
  if s.busy then .next ({ s with cmderr := true }.respond .accepted)
  else if s.startError = .none then
    .next ({ s.wipeOutputs with errcode := .none, phase := .digestB }.respond .accepted)
  else .next ((s.wipeOutputs.raiseError s.startError).respond .accepted)

/-- ABORT: while BUSY the run ends with ERRCODE 5, ROUNDIDX kept; otherwise nothing happens (R212). -/
def execAbort (s : State) : Host.Outcome State Fault Refusal :=
  if s.busy then .next ((s.raiseError .aborted).respond .accepted)
  else .next (s.respond .accepted)

/-- CLEAR: refused with CMDERR while BUSY; otherwise everything but INTEN and PWMAX takes its reset value (R213). -/
def execClear (s : State) : Host.Outcome State Fault Refusal :=
  if s.busy then .next ({ s with cmderr := true }.respond .accepted)
  else .next (s.clearAll.respond .accepted)

/-- RESERVED: CMDERR, and nothing else, in every phase (R214). -/
def execReserved (_word : Word) (s : State) : Host.Outcome State Fault Refusal :=
  .next ({ s with cmderr := true }.respond .accepted)

end Sys2Proof.Machine
end

