-- ==== Sys2Proof/Machine/BusWrite.lean ====
section
/-! DEFINITION. The seven classes of bus write (45_commands.md R200-R206). -/

namespace Sys2Proof.Machine

/-- A write to an input register or buffer: stored when the block is not BUSY (R201); dropped while BUSY, setting WERR
(R202). `stored` is the state with the data in place. -/
def State.writeInput (s stored : State) : State :=
  (if s.busy then { s with werr := true } else stored).respond .accepted

/-- The data of a write placed in an input register, whole (R201). -/
def State.setInput (s : State) (reg : InputReg) (data : Word) : State :=
  match reg with
  | .variant => { s with variant := data }
  | .rounds => { s with rounds := data }
  | .pwlen => { s with pwlen := data }
  | .saltlen => { s with saltlen := data }

/-- The four bytes of a write placed in a buffer, data bits [7:0] at the offset itself (R201, R62). -/
def State.setWord (s : State) (o : Nat) (data : Word) : State :=
  { s with mem := s.mem.writeBytes o (wordBytes data) }

/-- BUS_W_BAD: a bus error response and no state change (R200, R61, R252). -/
def execBusWBad (_off : BitVec 12) (_size : BitVec 8) (_data : Word) (s : State) :
    Host.Outcome State Fault Refusal :=
  .next (s.respond .busError)

/-- BUS_W_CMD: the data is a CMD word, decoded by R206 and executed as that command. -/
def execBusWCmd (data : Word) (s : State) : Host.Outcome State Fault Refusal :=
  if data = 0x00000000 then execNop s
  else if data = 0x00000001 then execStart s
  else if data = 0x00000002 then execAbort s
  else if data = 0x00000003 then execClear s
  else execReserved data s

/-- BUS_W_INTEN: bit 0 of the data is stored, in every phase (R204). -/
def execBusWInten (data : Word) (s : State) : Host.Outcome State Fault Refusal :=
  .next ({ s with ie := data.getLsbD 0 }.respond .accepted)

/-- BUS_W_INPUT_REG: VARIANT, ROUNDS, PWLEN or SALTLEN takes the whole word (R201, R202). -/
def execBusWInputReg (reg : InputReg) (data : Word) (s : State) : Host.Outcome State Fault Refusal :=
  .next (s.writeInput (s.setInput reg data))

/-- BUS_W_SALT: four bytes of the SALT buffer (R201, R202). -/
def execBusWSalt (w : BitVec 2) (data : Word) (s : State) : Host.Outcome State Fault Refusal :=
  .next (s.writeInput (s.setWord (saltOffset w) data))

/-- BUS_W_PW: four bytes of the PW buffer (R201, R202). A word at or above `PW_MAX / 4` is at a reserved offset and is
ignored (R64). -/
def execBusWPw (w : BitVec 10) (data : Word) (s : State) : Host.Outcome State Fault Refusal :=
  if w.toNat ≤ s.pwSize.val then .next (s.writeInput (s.setWord (pwOffset w) data))
  else .next (s.respond .accepted)

/-- BUS_W_IGNORED: no state change and no flag (R203). -/
def execBusWIgnored (_off : BitVec 12) (_data : Word) (s : State) : Host.Outcome State Fault Refusal :=
  .next (s.respond .accepted)

end Sys2Proof.Machine
end

