-- ==== Sys2Proof/Machine/ByteSeq.lean ====
section
/-! DEFINITION. The Byte Sequence Builder (41_byte_sequence.md R120-R125). -/

namespace Sys2Proof.Machine

/-- `X^k`: `k` copies of `X` in a row (00_scope.md R10). -/
def repeatBytes (k : Nat) (x : List Byte) : List Byte := (List.replicate k x).flatten

/-- `ceil(a / b)` for `b > 0` (00_scope.md R9). -/
def ceilDiv (a b : Nat) : Nat := (a + b - 1) / b

/-- `expandToLength(seed, n)`: the first `n` bytes of `seed` repeated; `n = 0` gives ε with no division (R120,
R121). R122: no reachable call has an empty seed with `n > 0`. -/
def expandToLength (seed : List Byte) (n : Nat) : List Byte :=
  if n = 0 then [] else (repeatBytes (ceilDiv n seed.length) seed).take n

/-- `selectByParity(bit, onSetBit, onClearBit)` (R123). -/
def selectByParity (bit : Bool) (onSet onClear : List Byte) : List Byte := if bit then onSet else onClear

/-- The loop of `altSeq`, at most `fuel` turns. -/
def altSeqGo (onSet onClear : List Byte) : Nat → Nat → List Byte
  | 0, _ => []
  | fuel + 1, n =>
    if n = 0 then []
    else selectByParity (n % 2 = 1) onSet onClear ++ altSeqGo onSet onClear fuel (n / 2)

/-- `altSeq(n, onSet, onClear)`: one choice per bit of `n`, least significant first, up to the highest 1 bit (R124).
A number has at most as many bits as its value. -/
def altSeq (n : Nat) (onSet onClear : List Byte) : List Byte := altSeqGo onSet onClear n n

end Sys2Proof.Machine
end

