-- ==== Sys2Proof/Machine/CoreAlg.lean ====
section
/-! DEFINITION. The Core Algorithm as pure functions of the inputs (42_core_algorithm.md R130-R140). The messages are
given as lists of parts, in the order the engine appends them (40_digest_engine.md R106). -/

namespace Sys2Proof.Machine

/-- The parts of `P ‖ S ‖ P` (R131). -/
def digestBParts (p s : List Byte) : List (List Byte) := [p, s, p]

/-- The parts of `P ‖ S ‖ expandToLength(B, p) ‖ altSeq(p, B, P)` with `p` the password length: one stream, hashed
once (R132; 90_conflicts.md C5). -/
def digestAParts (n : Nat) (p s b : List Byte) : List (List Byte) :=
  [p, s, expandToLength b n, altSeq n b p]

/-- The one part `P^p` (R133). -/
def dpParts (n : Nat) (p : List Byte) : List (List Byte) := [repeatBytes n p]

/-- The one part `S^(16 + A[0])` (R134; 90_conflicts.md C1). -/
def dsParts (s : List Byte) (a0 : Byte) : List (List Byte) := [repeatBytes (Config.dsBaseRepeat + a0.toNat) s]

/-- The parts of the round message `C_i`, the rules applied in order (R135). -/
def roundParts (i : Nat) (aprev p' s' : List Byte) : List (List Byte) :=
  [if i % 2 = 1 then p' else aprev] ++
  (if i % 3 ≠ 0 then [s'] else []) ++
  (if i % 7 ≠ 0 then [p'] else []) ++
  [if i % 2 = 1 then aprev else p']

/-- `DigestB(P, S)` (R131). -/
def digestB (v : Word) (p s : List Byte) : List Byte := digest v (digestBParts p s).flatten

/-- `DigestA(P, S, B)` (R132). -/
def digestA (v : Word) (p s b : List Byte) : List Byte := digest v (digestAParts p.length p s b).flatten

/-- `P'(P)` (R133). -/
def expandedP (v : Word) (p : List Byte) : List Byte :=
  expandToLength (digest v (dpParts p.length p).flatten) p.length

/-- `S'(S, A)`, with `A[0]` byte 0 of Digest A (R134). -/
def expandedS (v : Word) (s a : List Byte) : List Byte :=
  expandToLength (digest v (dsParts s (a.getD 0 0)).flatten) s.length

/-- The round message `C_i` (R135). -/
def roundMessage (i : Nat) (aprev p' s' : List Byte) : List Byte := (roundParts i aprev p' s').flatten

/-- `DigestA_i`, the digest after `i` rounds (R136). -/
def roundDigest (v : Word) (a p' s' : List Byte) : Nat → List Byte
  | 0 => a
  | i + 1 => digest v (roundMessage i (roundDigest v a p' s' i) p' s')

/-- `Core(P, S, r, V)`, the final digest (R137, R140). -/
def coreDigest (v : Word) (p s : List Byte) (r : Nat) : List Byte :=
  let a := digestA v p s (digestB v p s)
  roundDigest v a (expandedP v p) (expandedS v s a) r

end Sys2Proof.Machine
end

