-- ==== Sys2Proof/Machine/Encoder.lean ====
section
/-! DEFINITION. The Encoder, and its inverse for the host codec (43_encoder.md R150-R158). -/

namespace Sys2Proof.Machine

/-- The 64 symbols in index order, `./0-9A-Za-z`, as ASCII codes (R150). -/
def alphabet : List Byte :=
  [0x2e, 0x2f] ++ (List.range 10).map (fun k => BitVec.ofNat 8 (0x30 + k)) ++
  (List.range 26).map (fun k => BitVec.ofNat 8 (0x41 + k)) ++
  (List.range 26).map (fun k => BitVec.ofNat 8 (0x61 + k))

/-- `ALPH[i]` (R150). -/
def symbol (i : Nat) : Byte := alphabet.getD i 0

/-- `b64(b2, b1, b0, n)`: `n` symbols of the 24-bit value, least significant six bits first (R151). -/
def b64 (b2 b1 b0 : Byte) (n : Nat) : List Byte :=
  let w := b2.toNat * 2 ^ 16 + b1.toNat * 2 ^ 8 + b0.toNat
  (List.range n).map fun k => symbol (w / 2 ^ (6 * k) % 64)

/-- A row of a permutation table: the digest index in each byte column (none where the table has the literal 0) and
the number of symbols (R152, R153). -/
structure GroupRow where
  b2 : Option Nat
  b1 : Option Nat
  b0 : Option Nat
  n : Nat
deriving DecidableEq, Repr

/-- The SHA-256 permutation table (R152). -/
def table256 : List GroupRow :=
  [
   ⟨some 0, some 10, some 20, 4⟩, ⟨some 21, some 1, some 11, 4⟩, ⟨some 12, some 22, some 2, 4⟩,
   ⟨some 3, some 13, some 23, 4⟩, ⟨some 24, some 4, some 14, 4⟩, ⟨some 15, some 25, some 5, 4⟩,
   ⟨some 6, some 16, some 26, 4⟩, ⟨some 27, some 7, some 17, 4⟩, ⟨some 18, some 28, some 8, 4⟩,
   ⟨some 9, some 19, some 29, 4⟩, ⟨none, some 31, some 30, 3⟩]

/-- The SHA-512 permutation table (R153). -/
def table512 : List GroupRow :=
  [
   ⟨some 0, some 21, some 42, 4⟩, ⟨some 22, some 43, some 1, 4⟩, ⟨some 44, some 2, some 23, 4⟩,
   ⟨some 3, some 24, some 45, 4⟩, ⟨some 25, some 46, some 4, 4⟩, ⟨some 47, some 5, some 26, 4⟩,
   ⟨some 6, some 27, some 48, 4⟩, ⟨some 28, some 49, some 7, 4⟩, ⟨some 50, some 8, some 29, 4⟩,
   ⟨some 9, some 30, some 51, 4⟩, ⟨some 31, some 52, some 10, 4⟩, ⟨some 53, some 11, some 32, 4⟩,
   ⟨some 12, some 33, some 54, 4⟩, ⟨some 34, some 55, some 13, 4⟩, ⟨some 56, some 14, some 35, 4⟩,
   ⟨some 15, some 36, some 57, 4⟩, ⟨some 37, some 58, some 16, 4⟩, ⟨some 59, some 17, some 38, 4⟩,
   ⟨some 18, some 39, some 60, 4⟩, ⟨some 40, some 61, some 19, 4⟩, ⟨some 62, some 20, some 41, 4⟩,
   ⟨none, none, some 63, 2⟩]

/-- The digest byte a column names, or the literal 0. -/
def column (d : List Byte) : Option Nat → Byte
  | none => 0
  | some i => d.getD i 0

/-- The symbols of one row. -/
def GroupRow.encode (d : List Byte) (r : GroupRow) : List Byte :=
  b64 (column d r.b2) (column d r.b1) (column d r.b0) r.n

/-- `Encode(D, V)` (R154); for a VARIANT that is neither 5 nor 6 a free value (notes/assumptions/2.md). -/
def encodeDigest (v : Word) (d : List Byte) : List Byte :=
  if v = 5 then table256.flatMap (GroupRow.encode d)
  else if v = 6 then table512.flatMap (GroupRow.encode d)
  else (Config.otherEncoding v d).toList.take (encodedLen v)

/-- `idx(c)`: the index of a symbol, none for every other byte (R156). -/
def symbolIndex (c : Byte) : Option Nat :=
  let n := c.toNat
  if 0x2e ≤ n ∧ n ≤ 0x2f then some (n - 0x2e)
  else if 0x30 ≤ n ∧ n ≤ 0x39 then some (n - 0x30 + 2)
  else if 0x41 ≤ n ∧ n ≤ 0x5a then some (n - 0x41 + 12)
  else if 0x61 ≤ n ∧ n ≤ 0x7a then some (n - 0x61 + 38)
  else none

/-- `Σ idx(T[k]) * 2^(6k)` over a group's indices (R157). -/
def groupValue : List Nat → Nat
  | [] => 0
  | i :: is => i + 64 * groupValue is

/-- A decoded byte put into the slot a column names. -/
def putColumn (d : List Byte) (c : Option Nat) (v : Nat) : List Byte :=
  match c with
  | none => d
  | some i => d.set i (BitVec.ofNat 8 v)

/-- One row of `Decode`: `w[7:0]` to column b0, `w[15:8]` to b1 if `n >= 3`, `w[23:16]` to b2 if `n = 4` (R157). -/
def GroupRow.decodeInto (r : GroupRow) (w : Nat) (d : List Byte) : List Byte :=
  let d := putColumn d r.b0 w
  let d := if 3 ≤ r.n then putColumn d r.b1 (w / 2 ^ 8) else d
  if r.n = 4 then putColumn d r.b2 (w / 2 ^ 16) else d

/-- The rows of a table applied to the symbol indices, in order (R157). -/
def decodeRows : List GroupRow → List Nat → List Byte → List Byte
  | [], _, d => d
  | r :: rs, is, d => decodeRows rs (is.drop r.n) (r.decodeInto (groupValue (is.take r.n)) d)

/-- The permutation table of a variant; only 5 and 6 have one (R2). -/
def tableOf (v : Word) : Option (List GroupRow) :=
  if v = 5 then some table256 else if v = 6 then some table512 else none

/-- `Decode(T, V)`: none is *malformed* (R157). A variant with no table has no decoding. -/
def decodeDigest (v : Word) (t : List Byte) : Option (List Byte) :=
  if t.length ≠ encodedLen v then none
  else
    match t.mapM symbolIndex, tableOf v with
    | some is, some rows => some (decodeRows rows is (List.replicate (digestLen v) 0))
    | _, _ => none

end Sys2Proof.Machine
end

