-- ==== Sys2Proof/Machine/Sequencer.lean ====
section
/-! DEFINITION. The six engine steps (46_sequencer.md R230-R236). Each is one indivisible event that computes every
`H(…)` through the Digest Engine and leaves it reset (R239). -/

namespace Sys2Proof.Machine

/-- SEQ_DIGEST_B: `int.DB[0..L-1] <- H(P ‖ S ‖ P)`; phase DIGEST_A (R231). -/
def execSeqDigestB (s : State) : Host.Outcome State Fault Refusal :=
  let r := s.hashParts (digestBParts s.password s.salt)
  .next { r.2 with db := s.db.load Config.digestRegSize r.1, phase := .digestA }

/-- SEQ_DIGEST_A: `int.DA[0..L-1] <- H(P ‖ S ‖ expandToLength(B, p) ‖ altSeq(p, B, P))`; phase DP (R232). -/
def execSeqDigestA (s : State) : Host.Outcome State Fault Refusal :=
  let r := s.hashParts (digestAParts s.pwlen.toNat s.password s.salt s.digestBReg)
  .next { r.2 with da := s.da.load Config.digestRegSize r.1, phase := .dp }

/-- SEQ_DP: `int.PP[0..p-1] <- expandToLength(H(P^p), p)`; phase DS (R233). -/
def execSeqDp (s : State) : Host.Outcome State Fault Refusal :=
  let r := s.hashParts (dpParts s.pwlen.toNat s.password)
  .next { r.2 with pp := s.pp.load s.pwSize.bytes (expandToLength r.1 s.pwlen.toNat), phase := .ds }

/-- SEQ_DS: `int.SP[0..s-1] <- expandToLength(H(S^(16 + int.DA[0])), s)`; phase ROUND (R234). -/
def execSeqDs (s : State) : Host.Outcome State Fault Refusal :=
  let r := s.hashParts (dsParts s.salt (s.da.read 0))
  .next { r.2 with sp := s.sp.load Config.spSize (expandToLength r.1 s.saltlen.toNat), phase := .round }

/-- SEQ_ROUND: `int.DA[0..L-1] <- H(C(i, A, P', S'))` and `ROUNDIDX <- i + 1`; phase ENCODE after the last round,
else ROUND (R235). -/
def execSeqRound (s : State) : Host.Outcome State Fault Refusal :=
  let i := s.roundidx.toNat
  let r := s.hashParts (roundParts i s.digestAReg s.ppReg s.spReg)
  .next
    { r.2 with
      da := s.da.load Config.digestRegSize r.1
      roundidx := BitVec.ofNat 32 (i + 1)
      phase := if i + 1 = s.rounds.toNat then .encode else .round }

/-- SEQ_ENCODE: RAW and ENC take the digest and its encoding, RAWLEN and ENCLEN their lengths, the internals are wiped
and the phase becomes DONE (R236). -/
def execSeqEncode (s : State) : Host.Outcome State Fault Refusal :=
  let d := s.digestAReg
  let t := encodeDigest s.variant d
  .next
    { s.wipeInternals with
      mem := (s.mem.writeBytes Config.rawBase d).writeBytes Config.encBase t
      rawlen := BitVec.ofNat 32 s.len
      enclen := BitVec.ofNat 32 (encodedLen s.variant)
      phase := .done }

end Sys2Proof.Machine
end

