-- ==== Sys2Proof/Machine/Dispatch.lean ====
section
/-! DEFINITION. What each instruction does: one arm per constructor of Instr. -/

namespace Sys2Proof.Machine

def exec (i : Instr) (s : State) : Host.Outcome State Fault Refusal :=
  match i with
  | .nop => Sys2Proof.Machine.execNop s
  | .start => Sys2Proof.Machine.execStart s
  | .abort => Sys2Proof.Machine.execAbort s
  | .clear => Sys2Proof.Machine.execClear s
  | .reserved word => Sys2Proof.Machine.execReserved word s
  | .busWBad off size data => Sys2Proof.Machine.execBusWBad off size data s
  | .busWCmd data => Sys2Proof.Machine.execBusWCmd data s
  | .busWInten data => Sys2Proof.Machine.execBusWInten data s
  | .busWInputReg reg data => Sys2Proof.Machine.execBusWInputReg reg data s
  | .busWSalt w data => Sys2Proof.Machine.execBusWSalt w data s
  | .busWPw w data => Sys2Proof.Machine.execBusWPw w data s
  | .busWIgnored off data => Sys2Proof.Machine.execBusWIgnored off data s
  | .busR off size => Sys2Proof.Machine.execBusR off size s
  | .seqDigestB => Sys2Proof.Machine.execSeqDigestB s
  | .seqDigestA => Sys2Proof.Machine.execSeqDigestA s
  | .seqDp => Sys2Proof.Machine.execSeqDp s
  | .seqDs => Sys2Proof.Machine.execSeqDs s
  | .seqRound => Sys2Proof.Machine.execSeqRound s
  | .seqEncode => Sys2Proof.Machine.execSeqEncode s

end Sys2Proof.Machine
end

