-- ==== Sys2Proof/Machine/Agents.lean ====
section
/-! DEFINITION. The two agents' moves and the reset event: what happens next, and how each fetches its instruction
(20_memory.md R69, 46_sequencer.md R230, 70_reset_and_hazards.md R280). -/

namespace Sys2Proof.Machine

/-- The engine step the phase code selects, if any (30_encoding.md R84; R237: none in IDLE, DONE and ERROR). -/
def State.fetchEngine (s : State) : Option Instr :=
  match decodeSeq s.phase.code with
  | .ok i => some i
  | .error _ => none

/-- The engine's move: its one enabled step, or nothing where it has none (R230, R237). -/
def engineMove (s : State) : Host.Outcome State Fault Refusal :=
  match s.fetchEngine with
  | some i => exec i s
  | none => .next s

/-- The host's move: the transaction its packet decodes to. A packet that is no transaction is refused by name. -/
def hostMove (packet : List Byte) (s : State) : Host.Outcome State Fault Refusal :=
  match decodeHost s.pwSize packet with
  | .ok i => exec i s
  | .error e => .refused (.undecodable e)

/-- The next event of the interleaving. When no event is scheduled the engine moves, so a started computation ends
(R238: an engine step that stays enabled is taken), and a quiescent block stays as it is (60_exceptions.md R268). -/
def nextEvent (s : State) : Host.Outcome State Fault Refusal :=
  match s.events with
  | [] => engineMove s
  | .engine :: rest => engineMove { s with events := rest }
  | .host packet :: rest => hostMove packet { s with events := rest }
  | .reset :: rest => .next { s with events := rest }.hardReset

/-- Where a table word is put so that it is fetched next: a phase code that selects a step goes to `int.phase`, with
the engine's move next; every other packet goes on the bus next. -/
def State.placeWord (s : State) (nbits w : Nat) : State :=
  let code := BitVec.ofNat 4 w
  if nbits ≤ 8 ∧ w < 16 then
    match decodeSeq code, Phase.ofCode code with
    | .ok _, some p => { s with phase := p, events := .engine :: s.events }
    | _, _ => { s with events := .host (tablePacket nbits w) :: s.events }
  else { s with events := .host (tablePacket nbits w) :: s.events }

end Sys2Proof.Machine
end

