-- ==== Sys2Proof/Machine/Step.lean ====
section
/-! DEFINITION. One step of the machine: one event of the interleaving (20_memory.md R68, R69). -/

namespace Sys2Proof.Machine

/-- One indivisible event: a host transaction, an engine step or a reset (R68, R69). -/
def step (s : State) : Host.Outcome State Fault Refusal := nextEvent s

/-- `s` with a word of the opcode table placed where the next step fetches (notes/assumptions/4.md): a host packet at
the head of the events, or the phase a sequencer code selects with the engine's move at the head. -/
def State.withFetchWord (s : State) (nbits w : Nat) : State := s.placeWord nbits w

end Sys2Proof.Machine
end

