-- ==== Sys2Proof/Machine/HostCodec.lean ====
section
/-! DEFINITION. The host-side Hash String Codec (44_hash_string_codec.md R170-R178, R182). Strings are byte lists of
ASCII codes (00_scope.md R10). -/

namespace Sys2Proof.Machine

/-- The host's error kinds (R170). -/
inductive HostError where
  | invalidSalt
  | invalidRounds
  | unsupportedVariant
  | malformedHash
  | mismatch
  | passwordTooLong
  | aborted
deriving DecidableEq, Repr

/-- What a parsed hash string says: `(V, r, S, T)` (R174). -/
structure ParsedHash where
  variant : Word
  rounds : Nat
  salt : List Byte
  field : List Byte
deriving DecidableEq, Repr

/-- The delimiter `$` (R171). -/
def dollar : Byte := 0x24

/-- The seven bytes `rounds=` (R176). -/
def roundsPrefix : List Byte := [0x72, 0x6f, 0x75, 0x6e, 0x64, 0x73, 0x3d]

/-- `isDigit(c)` (R171). -/
def isDigit (c : Byte) : Bool := 0x30 ≤ c.toNat && c.toNat ≤ 0x39

/-- The digits of `n` in front of `acc`, at most `fuel` of them. -/
def decGo : Nat → Nat → List Byte → List Byte
  | 0, _, acc => acc
  | fuel + 1, n, acc =>
    let acc' := BitVec.ofNat 8 (0x30 + n % 10) :: acc
    if n / 10 = 0 then acc' else decGo fuel (n / 10) acc'

/-- `dec(n)`: the decimal digits of `n`, no sign, no leading zeros, at least one digit (R173). -/
def dec (n : Nat) : List Byte := decGo (n + 1) n []

/-- The decimal value of a digit string, as an unbounded natural; leading zeros are accepted (R176). -/
def decValue (ds : List Byte) : Nat := ds.foldl (fun n d => 10 * n + (d.toNat - 0x30)) 0

/-- `Format(V, r, S, T)`: the rounds field is present exactly when `r ≠ 5000` (R172). -/
def formatHash (h : ParsedHash) : List Byte :=
  [dollar] ++ dec h.variant.toNat ++ [dollar] ++
  (if h.rounds ≠ Config.roundsDefault then roundsPrefix ++ dec h.rounds ++ [dollar] else []) ++
  h.salt ++ [dollar] ++ h.field

/-- The bytes before the first `$` and those after it; none when there is no `$`. -/
def splitDollar : List Byte → Option (List Byte × List Byte)
  | [] => none
  | c :: cs => if c = dollar then some ([], cs) else (splitDollar cs).map fun p => (c :: p.1, p.2)

/-- Parse step 1, the identifier: exactly `5` or `6` (R175). -/
def parseId (id : List Byte) : Except HostError Word :=
  if id = [0x35] then .ok 5 else if id = [0x36] then .ok 6 else .error .unsupportedVariant

/-- Parse step 2, the optional rounds field: the rounds and what follows (R176). -/
def parseRounds (rest : List Byte) : Except HostError (Nat × List Byte) :=
  if rest.take 7 = roundsPrefix then
    match splitDollar (rest.drop 7) with
    | none => .error .malformedHash
    | some (digits, rest') =>
      if digits = [] ∨ digits.all isDigit = false then .error .invalidRounds
      else if decValue digits < Config.roundsMin ∨ Config.roundsMax < decValue digits then .error .invalidRounds
      else .ok (decValue digits, rest')
  else .ok (Config.roundsDefault, rest)

/-- Parse step 3, the salt: 1 to 16 salt characters, never truncated (R177; 90_conflicts.md C4). -/
def parseSalt (rest : List Byte) : Except HostError (List Byte × List Byte) :=
  match splitDollar rest with
  | none => .error .malformedHash
  | some (s, t) =>
    if s.length < Config.saltMin ∨ Config.saltMax < s.length ∨ s.all isSaltChar = false then .error .invalidSalt
    else .ok (s, t)

/-- Parse step 4, the digest field (R178). -/
def parseField (v : Word) (t : List Byte) : Except HostError (List Byte) :=
  match decodeDigest v t with
  | none => .error .malformedHash
  | some _ => .ok t

/-- Parse steps 2 to 4 of what follows the identifier. -/
def parseTail (v : Word) (rest : List Byte) : Except HostError ParsedHash :=
  match parseRounds rest with
  | .error e => .error e
  | .ok (r, rest') =>
    match parseSalt rest' with
    | .error e => .error e
    | .ok (s, t) =>
      match parseField v t with
      | .error e => .error e
      | .ok t => .ok ⟨v, r, s, t⟩

/-- `Parse(E)`: a left-to-right scan that stops at the first error (R174). -/
def parseHash : List Byte → Except HostError ParsedHash
  | [] => .error .malformedHash
  | c :: cs =>
    if c ≠ dollar then .error .malformedHash
    else
      match splitDollar cs with
      | none => .error .malformedHash
      | some (id, rest) =>
        match parseId id with
        | .error e => .error e
        | .ok v => parseTail v rest

/-- The host's error kind of an ERRCODE word it read (R179); none for 0 and for codes the block never writes. -/
def hostErrorOfWord (w : Word) : Option HostError :=
  if w = 1 then some .invalidSalt
  else if w = 2 then some .invalidRounds
  else if w = 3 then some .unsupportedVariant
  else if w = 4 then some .passwordTooLong
  else if w = 5 then some .aborted
  else none

/-- `ConstantTimeEqual(X, Y)`: true exactly when the byte strings are equal; its time is not modelled (R182, R292). -/
def constantTimeEqual (x y : List Byte) : Bool := x = y

end Sys2Proof.Machine
end

