-- ==== Sys2Proof/Machine/HostProgram.lean ====
section
/-! DEFINITION. The host agent: bus transactions at platform addresses, the host-program syntax and its
pseudo-instructions (30_encoding.md R90, R91), and the procedures `Hash` and `Verify` (44_hash_string_codec.md R180,
R181) over the machine's own steps. -/

namespace Sys2Proof.Machine

/-- The window offset of a platform address, none outside the window (00_scope.md R8, 20_memory.md R60). DESIGN CHOICE,
unsafe: whether the window is aliased is the platform's choice (20_memory.md R65); here it is not, so every address
outside `BASE..BASE+4095` has no offset (notes/assumptions/21.md). -/
def windowOffset (addr : Nat) : Option (BitVec 12) :=
  if Config.base ≤ addr ∧ addr < Config.base + 4096 then some (BitVec.ofNat 12 (addr - Config.base)) else none

/-- A line of a host program (R90). -/
inductive HostOp where
  /-- `W off, data` -/
  | w (off : BitVec 12) (data : Word)
  /-- `R off` -/
  | r (off : BitVec 12)
  /-- `POLL off, mask, value`: read until `(t AND mask) = value` -/
  | poll (off : BitVec 12) (mask value : Word)
deriving DecidableEq, Repr

/-- The host puts a packet on the bus now, before whatever else is scheduled. -/
def State.transact (s : State) (packet : List Byte) : Host.Outcome State Fault Refusal :=
  step { s with events := .host packet :: s.events }

/-- The machine takes `n` events of the interleaving; none where one of them stops it. -/
def State.elapse : Nat → State → Option State
  | 0, s => some s
  | n + 1, s =>
    match step s with
    | .next t => t.elapse n
    | _ => none

/-- `MemWrite(off, 4, data)` as the host issues it (R90): the state after the transaction, accepted or answered with a
bus error; what the program does then is `lineWrite`'s to say (notes/assumptions/24.md). -/
def hostWrite (off : BitVec 12) (data : Word) (s : State) : Option State :=
  match s.transact (writePacket off 4 data) with
  | .next t => some t
  | _ => none

/-- `MemRead(off, 4)`: the word the block answered (R90); none on a bus error, which brings no word (45_commands.md
R205), and so the program none either (notes/assumptions/24.md). -/
def hostRead (off : BitVec 12) (s : State) : Option (Word × State) :=
  match s.transact (readPacket off 4) with
  | .next t => match t.response with
    | .data w => some (w, t)
    | _ => none
  | _ => none

/-- For each bus transaction of a host program, in order, how many events of the interleaving the machine takes just
before it (20_memory.md R69; 46_sequencer.md R238: any number). DESIGN CHOICE, safe: the interleaving is an argument, and
where it runs out the program has no result (notes/assumptions/16.md). -/
abbrev Schedule := List Nat

/-- A line `W off, data` (R90). DESIGN CHOICE, safe: what the bus master does with a bus error is the platform's
(60_exceptions.md R252); here the program has no result then (notes/assumptions/24.md). -/
def lineWrite (off : BitVec 12) (data : Word) : Schedule → State → Option (Schedule × State)
  | [], _ => none
  | n :: sched, s =>
    ((s.elapse n).bind (hostWrite off data)).bind fun t =>
      if t.response = .busError then none else some (sched, t)

/-- A line `R off` (R90). On a bus error there is no word and the program has no result (notes/assumptions/24.md). -/
def lineRead (off : BitVec 12) : Schedule → State → Option (Word × Schedule × State)
  | [], _ => none
  | n :: sched, s => ((s.elapse n).bind (hostRead off)).map fun p => (p.1, sched, p.2)

/-- A line `POLL off, mask, value` (R90): each read is a transaction of the schedule. -/
def linePoll (off : BitVec 12) (mask value : Word) : Schedule → State → Option (Word × Schedule × State)
  | [], _ => none
  | n :: sched, s =>
    match (s.elapse n).bind (hostRead off) with
    | none => none
    | some (t, s') => if t &&& mask = value then some (t, sched, s') else linePoll off mask value sched s'

/-- A host program (R90): the words its reads and polls returned, in order, what is left of the schedule, and the state
it leaves. -/
def runHost : List HostOp → Schedule → State → Option (List Word × Schedule × State)
  | [], sched, s => some ([], sched, s)
  | .w off data :: ops, sched, s => (lineWrite off data sched s).bind fun p => runHost ops p.1 p.2
  | .r off :: ops, sched, s =>
    (lineRead off sched s).bind fun p => (runHost ops p.2.1 p.2.2).map fun q => (p.1 :: q.1, q.2)
  | .poll off mask value :: ops, sched, s =>
    (linePoll off mask value sched s).bind fun p => (runHost ops p.2.1 p.2.2).map fun q => (p.1 :: q.1, q.2)

/-! ### Pseudo-instructions (R91) -/

/-- `NOP` -/
def pseudoNop : List HostOp := [.w 0x000 0x00000000]

/-- `START` -/
def pseudoStart : List HostOp := [.w 0x000 0x00000001]

/-- `ABORT` -/
def pseudoAbort : List HostOp := [.w 0x000 0x00000002]

/-- `CLEAR` -/
def pseudoClear : List HostOp := [.w 0x000 0x00000003]

/-- `WAITDONE`: poll BUSY alone, then read STATUS -/
def waitDone : List HostOp := [.poll 0x004 0x00000001 0x00000000, .r 0x004]

/-- A natural number as the 32-bit data of a write; one that does not fit is written as the greatest word, which no
length or rounds check of START accepts (notes/assumptions/8.md). -/
def satWord (n : Nat) : Word := BitVec.ofNat 32 (min n 0xFFFFFFFF)

/-- The writes that pack a byte sequence little-endian into words from offset `base`, a missing byte being 0. A word
past the end of the window is no access to this block (20_memory.md R60). -/
def loadWords (base : Nat) (bytes : List Byte) : List HostOp :=
  (List.range ((bytes.length + 3) / 4)).filterMap fun w =>
    if base + 4 * w < 4096 then
      some (.w (BitVec.ofNat 12 (base + 4 * w)) (bytesWord ((bytes.drop (4 * w)).take 4)))
    else none

/-- `LOADPW bytes` -/
def loadPw (bytes : List Byte) : List HostOp := loadWords Config.pwBase bytes ++ [.w 0x018 (satWord bytes.length)]

/-- `LOADSALT bytes` -/
def loadSalt (bytes : List Byte) : List HostOp :=
  loadWords Config.saltBase bytes ++ [.w 0x01C (satWord bytes.length)]

/-- `HASH v, r, pw, salt` -/
def hashProgram (v : Word) (r : Nat) (pw salt : List Byte) : List HostOp :=
  [.w 0x010 v, .w 0x014 (satWord r)] ++ loadPw pw ++ loadSalt salt ++ pseudoStart ++ waitDone

/-- The reads of ENCLEN and of the whole ENC buffer. -/
def readEnc : List HostOp := .r 0x028 :: (List.range 22).map fun w => .r (BitVec.ofNat 12 (Config.encBase + 4 * w))

/-- The error of `Hash`: ERRCODE's kind (R179, R180).
DESIGN CHOICE, unsafe: the host issues no CLEAR after it, as R180's procedure has it, so PW keeps the password;
70_reset_and_hazards.md R287 says a host must CLEAR once it has read ERRCODE (notes/assumptions/23.md). -/
def hashError (sched : Schedule) (s : State) : Option (Except HostError (List Byte) × Schedule × State) :=
  (lineRead 0x008 sched s).bind fun p => (hostErrorOfWord p.1).map fun k => (.error k, p.2)

/-- The value of `Hash`: the digest field is as many bytes of ENC as ENCLEN counts, 43 or 86 (R180), read before the
CLEAR. None for another count (notes/assumptions/22.md). -/
def hashValue (v : Word) (r : Nat) (salt : List Byte) (sched : Schedule) (s : State) :
    Option (Except HostError (List Byte) × Schedule × State) :=
  match runHost (readEnc ++ pseudoClear) sched s with
  | some (n :: enc, rest) =>
    if n = 43 ∨ n = 86 then some (.ok (formatHash ⟨v, r, salt, (enc.flatMap wordBytes).take n.toNat⟩), rest) else none
  | _ => none

/-- `Hash(P, S, r, V)` (R180): load, START, wait; with ERR report ERRCODE's kind, with DONE read ENC, CLEAR and format.
None where the program has no result (notes/assumptions/16.md, 24.md) or ERRCODE read none of the five codes
(notes/assumptions/17.md).
DESIGN CHOICE, safe: a reset, or a CLEAR of another agent, ends the poll with BUSY, DONE and ERR all 0; 46_sequencer.md
R241 gives such a run no outcome and R180 no result, so there is none here (notes/assumptions/22.md). -/
def hostHash (pw salt : List Byte) (r : Nat) (v : Word) (sched : Schedule) (s : State) :
    Option (Except HostError (List Byte) × Schedule × State) :=
  (runHost (hashProgram v r pw salt) sched s).bind fun p =>
    let st := p.1.getLastD 0
    if st.getLsbD 2 then hashError p.2.1 p.2.2
    else if st.getLsbD 1 then hashValue v r salt p.2.1 p.2.2
    else none

/-- `Verify(P, E)` (R181) under the host's optional rounds cap, `HOST_ROUNDS_CAP`: a stored string above the cap is
rejected as InvalidRounds before ROUNDS is written (70_reset_and_hazards.md R291). The cap is one that 00_scope.md R8
gives the parameter: no other value is an argument. -/
def hostVerify (cap : RoundsCap) (pw e : List Byte) (sched : Schedule) (s : State) :
    Option (Except HostError Bool × Schedule × State) :=
  match parseHash e with
  | .error k => some (.error k, sched, s)
  | .ok h =>
    if cap.val < h.rounds then some (.error .invalidRounds, sched, s)
    else
      match hostHash pw h.salt h.rounds h.variant sched s with
      | none => none
      | some (.error k, rest) => some (.error k, rest)
      | some (.ok e', rest) => some (if constantTimeEqual e' e then .ok true else .error .mismatch, rest)

end Sys2Proof.Machine
end

