-- ==== Sys2Proof/Machine/Work.lean ====
section
/-! DEFINITION. The informative work measure (70_reset_and_hazards.md R293): compression-function calls per step. No
step reads it; the model is untimed (R292). -/

namespace Sys2Proof.Machine

/-- `blocks(n)`: the blocks of a padded message of `n` bytes (R293). -/
def workBlocks (v : Word) (n : Nat) : Nat := if v = 5 then (n + 8) / 64 + 1 else (n + 16) / 128 + 1

/-- The number of 1 bits and of bits of `n`, at most `fuel` of them (R124, R125). -/
def bitCounts : Nat → Nat → Nat × Nat
  | 0, _ => (0, 0)
  | fuel + 1, n =>
    if n = 0 then (0, 0)
    else
      let c := bitCounts fuel (n / 2)
      (c.1 + n % 2, c.2 + 1)

/-- `popcount(n)` -/
def popcount (n : Nat) : Nat := (bitCounts n n).1

/-- `bitlen(n)`, with `bitlen(0) = 0` (R124) -/
def bitlen (n : Nat) : Nat := (bitCounts n n).2

/-- The length of Digest A's message (R293, R108). -/
def digestAWork (v : Word) (p s : Nat) : Nat :=
  2 * p + s + popcount p * digestLen v + (bitlen p - popcount p) * p

/-- The length of the round message `C_i` (R135, the length column). -/
def roundWork (v : Word) (i p s : Nat) : Nat :=
  digestLen v + p + (if i % 3 ≠ 0 then s else 0) + (if i % 7 ≠ 0 then p else 0)

end Sys2Proof.Machine
end

