-- ==== Sys2Proof/Safety.lean ====
section
/-! DEFINITION. The terms the claims use: runs of the machine, legal inputs as the spec words them, the invariant of
every reachable state (10_state.md R50 and the widths of R36-R45), and what a host can observe. -/

namespace Sys2Proof.Machine

/-- `k` steps, stopping at the first that does not answer a next state. -/
def runSteps : Nat → State → Host.Outcome State Fault Refusal
  | 0, s => .next s
  | k + 1, s =>
    match step s with
    | .next t => runSteps k t
    | .fault r => .fault r
    | .refused r => .refused r

/-! ### Legal inputs, in the words of 45_commands.md R209 -/

/-- A byte of `[A-Za-z0-9./]` (R209). -/
def legalSaltByte (c : Byte) : Prop :=
  (0x41 ≤ c.toNat ∧ c.toNat ≤ 0x5A) ∨ (0x61 ≤ c.toNat ∧ c.toNat ≤ 0x7A) ∨ (0x30 ≤ c.toNat ∧ c.toNat ≤ 0x39) ∨
    c.toNat = 0x2E ∨ c.toNat = 0x2F

/-- `1 <= s <= 16` (R209) -/
def State.saltLenLegal (s : State) : Prop := 1 ≤ s.saltlen.toNat ∧ s.saltlen.toNat ≤ 16

/-- every byte `buf[SALT][k]`, `k < s`, is a salt character (R209) -/
def State.saltCharsLegal (s : State) : Prop := ∀ k, k < s.saltlen.toNat → legalSaltByte (s.mem.read (0x040 + k))

/-- `1000 <= r <= 999999999` (R209) -/
def State.roundsLegal (s : State) : Prop := 1000 ≤ s.rounds.toNat ∧ s.rounds.toNat ≤ 999999999

/-- `V = 5 or V = 6` (R209) -/
def State.variantLegal (s : State) : Prop := s.variant.toNat = 5 ∨ s.variant.toNat = 6

/-- `p <= PW_MAX` (R209) -/
def State.passwordFits (s : State) : Prop := s.pwlen.toNat ≤ s.pwSize.bytes

/-- The inputs as they stand pass every check of START (R209, R210). -/
structure State.Legal (s : State) : Prop where
  saltLen : s.saltLenLegal
  saltChars : s.saltCharsLegal
  rounds : s.roundsLegal
  variant : s.variantLegal
  password : s.passwordFits

/-! ### The invariant -/

/-- The bytes of the window that exist: SALT, RAW, ENC and PW (10_state.md R36-R39). -/
def bufferAddr (pw : PwSize) (a : Nat) : Bool :=
  (0x040 ≤ a && a < 0x050) || (0x080 ≤ a && a < 0x0C0) || (0x0C0 ≤ a && a < 0x118) ||
  (0x200 ≤ a && a < 0x200 + pw.bytes)

/-- A byte of an input buffer: SALT or PW (10_state.md R23). -/
def inputAddr (pw : PwSize) (a : Nat) : Bool :=
  (0x040 ≤ a && a < 0x050) || (0x200 ≤ a && a < 0x200 + pw.bytes)

/-- A byte of an output buffer: RAW or ENC (10_state.md R37, R38). -/
def outputAddr (a : Nat) : Bool := 0x080 ≤ a && a < 0x118

/-- Every memory is in canonical form and holds no byte outside its buffer or register (R36-R44). -/
structure State.MemOK (s : State) : Prop where
  mem_wf : s.mem.wf = true
  db_wf : s.db.wf = true
  da_wf : s.da.wf = true
  pp_wf : s.pp.wf = true
  sp_wf : s.sp.wf = true
  mem_in : ∀ c ∈ s.mem, bufferAddr s.pwSize c.1 = true
  db_in : s.db.within 64 = true
  da_in : s.da.within 64 = true
  pp_in : s.pp.within s.pwSize.bytes = true
  sp_in : s.sp.within 16 = true

/-- The phase invariants (a)-(d) of 10_state.md R50, with R45's empty accumulator in every phase and R32's ROUNDIDX
before and after the loop. -/
structure State.PhaseOK (s : State) : Prop where
  acc_empty : s.acc = []
  internals_zero : s.busy = false → s.db = [] ∧ s.da = [] ∧ s.pp = [] ∧ s.sp = []
  outputs_zero : s.phase ≠ .done →
    (∀ a, outputAddr a = true → s.mem.read a = 0) ∧ s.rawlen = 0 ∧ s.enclen = 0
  before_rounds : s.phase = .digestB ∨ s.phase = .digestA ∨ s.phase = .dp ∨ s.phase = .ds → s.roundidx = 0
  round_index : s.phase = .round → s.roundidx.toNat < s.rounds.toNat
  encode_index : s.phase = .encode → s.roundidx = s.rounds
  inputs_legal : s.busy = true → s.Legal

/-- The invariant of every reachable state. -/
structure State.Inv (s : State) : Prop where
  memOK : s.MemOK
  phaseOK : s.PhaseOK

/-- In DONE the ENC buffer holds the encoding of the RAW buffer's digest, with the lengths of a variant, and both
buffers are zero past their lengths (10_state.md R33, R34, R37, R38). -/
def State.OutputsAgree (s : State) : Prop :=
  s.phase = .done →
    (s.rawlen = 32 ∧ s.enclen = 43 ∧
      s.rawBuffer.drop 32 = List.replicate 32 0 ∧
      s.encBuffer = encodeDigest 5 (s.rawBuffer.take 32) ++ List.replicate 45 0) ∨
    (s.rawlen = 64 ∧ s.enclen = 86 ∧ s.encBuffer = encodeDigest 6 s.rawBuffer ++ List.replicate 2 0)

/-- A run is over exactly in DONE and ERROR (46_sequencer.md R241). -/
def State.runOver (s : State) : Bool := s.phase = .done || s.phase = .error

/-! ### The next event -/

/-- The next event is a reset. -/
def State.resetNext (s : State) : Prop := ∃ rest, s.events = .reset :: rest

/-- The instruction of the next event, when that is a host transaction. -/
def State.hostNext (s : State) : Option Instr :=
  match s.events with
  | .host packet :: _ =>
    match decodeHost s.pwSize packet with
    | .ok i => some i
    | .error _ => none
  | _ => none

end Sys2Proof.Machine

namespace Sys2Proof

/-- The START command, as a CMD word or as the bus write that carries it (45_commands.md R206). -/
def Instr.isStart (i : Instr) : Prop := i = .start ∨ i = .busWCmd 0x00000001

/-- The ABORT command, likewise. -/
def Instr.isAbort (i : Instr) : Prop := i = .abort ∨ i = .busWCmd 0x00000002

/-- The CLEAR command, likewise. -/
def Instr.isClear (i : Instr) : Prop := i = .clear ∨ i = .busWCmd 0x00000003

/-- A reserved command, likewise. -/
def Instr.isReserved (i : Instr) : Prop :=
  (∃ word, i = .reserved word) ∨ ∃ data : Word, 3 < data.toNat ∧ i = .busWCmd data

/-- A write to an input register or buffer (45_commands.md R201, R202). -/
def Instr.isInputWrite (i : Instr) : Prop :=
  (∃ reg data, i = .busWInputReg reg data) ∨ (∃ w data, i = .busWSalt w data) ∨ ∃ w data, i = .busWPw w data

end Sys2Proof

namespace Sys2Proof.Machine

/-! ### What a host can observe -/

/-- Two states that differ at most in the PW buffer, the internal registers and the accumulator (10_state.md R39,
R40-R45; 60_exceptions.md R267): every other field is equal, and so is every byte below the PW buffer. -/
structure sameVisible (s t : State) : Prop where
  fields : { t with mem := s.mem, db := s.db, da := s.da, pp := s.pp, sp := s.sp, acc := s.acc } = s
  mem : ∀ a, a < 0x200 → s.mem.read a = t.mem.read a

end Sys2Proof.Machine
end

