-- ==== Sys2Proof/Certificates/Slice0/Obligations.lean ====
section
/-! DEFINITION. The statements for the provers. A state whose fields are all those of `s` but some is written
`t = { s with … }`, so each such equation is also the frame: it says that every other register, flag, internal register,
memory and pending event is unchanged. `response` and `events` are the model's own fields: what the block last answered on
the bus (`.accepted` records a write that got no bus error), and the events to come (notes/assumptions/5.md). -/

open Sys2Proof Sys2Proof.Machine

/-! ### Reset -/

/-- 10_state.md R48: after reset every piece of state has the listed value, for every PW_MAX. -/
def Obligations.ResetLeavesTheListedValues : Prop :=
  (∃ pw : PwSize, State.reset = State.resetAt pw) ∧
  ∀ pw : PwSize,
    let s := State.resetAt pw
    s.phase = .idle ∧ s.cmderr = false ∧ s.werr = false ∧ s.status = 0x00000000 ∧
    s.errcode = .none ∧ s.errcodeWord = 0 ∧ s.ie = false ∧ s.intenWord = 0 ∧
    s.variant = 0 ∧ s.rounds = 0x00001388 ∧ s.pwlen = 0 ∧ s.saltlen = 0 ∧
    s.roundidx = 0 ∧ s.rawlen = 0 ∧ s.enclen = 0 ∧ s.readOffset 0x02C = BitVec.ofNat 32 pw.bytes ∧
    (∀ a, s.mem.read a = 0) ∧
    s.saltBuffer = List.replicate 16 0 ∧ s.rawBuffer = List.replicate 64 0 ∧ s.encBuffer = List.replicate 88 0 ∧
    s.pwBuffer = List.replicate pw.bytes 0 ∧
    (∀ k, s.db.read k = 0) ∧ (∀ k, s.da.read k = 0) ∧ (∀ k, s.pp.read k = 0) ∧ (∀ k, s.sp.read k = 0) ∧
    s.acc = [] ∧ s.irq = false

/-- 70_reset_and_hazards.md R280: the reset event gives every register, buffer and internal state its reset value, in
every phase, INTEN included; STATUS then reads 0 and the interrupt output is 0. The events after it are kept, and nothing is
said of the bus response record (notes/assumptions/5.md). -/
def Obligations.ResetEventResetsEverything : Prop :=
  ∀ (s : State) (rest : List Event), s.events = .reset :: rest → ∃ t : State,
    step s = .next t ∧
    t = { State.resetAt s.pwSize with response := t.response, events := rest } ∧
    t.status = 0x00000000 ∧ t.irq = false ∧ t.ie = false

/-- The invariant of reachable states holds after reset, for every PW_MAX. -/
def Obligations.ResetSatisfiesTheInvariant : Prop :=
  State.reset.Inv ∧ ∀ pw : PwSize, (State.resetAt pw).Inv ∧ (State.resetAt pw).OutputsAgree

/-! ### Decoding -/

/-- Words written out from the spec's encodings decode to their instructions (R82, R84, R80 with R23). The layout of a packet's
bytes is the model's choice (notes/assumptions/3.md). -/
def Obligations.SpecWordsDecode : Prop :=
  decodeTableWord 32 0x00000000 = some .nop ∧
  decodeTableWord 32 0x00000001 = some .start ∧
  decodeTableWord 32 0x00000002 = some .abort ∧
  decodeTableWord 32 0x00000003 = some .clear ∧
  decodeTableWord 32 0x00000011 = some (.reserved 0x00000011) ∧
  decode Config.pwSize [0x14, 0x00, 0x04, 0xE8, 0x03, 0x00, 0x00] = .ok (.busWInputReg .rounds 1000) ∧
  decode Config.pwSize [0x04, 0x00, 0x04] = .ok (.busR 0x004 4) ∧
  decodeTableWord 8 0x05 = some .seqRound

/-- Decode and encode agree: every well-formed instruction, with every operand at every value its encoding admits,
decodes from its own packet. The layout of a packet's bytes is the model's choice (notes/assumptions/3.md). -/
def Obligations.DecodeInvertsEncode : Prop :=
  ∀ (pw : PwSize) (i : Instr), i.wf pw = true → decode pw (encode i) = .ok i

/-- Each packet has one meaning: what decodes is well-formed, and its packet is the one it was read from. The layout of a
packet's bytes is the model's choice (notes/assumptions/3.md). -/
def Obligations.EncodeInvertsDecode : Prop :=
  ∀ (pw : PwSize) (bytes : List Byte) (i : Instr), decode pw bytes = .ok i →
    i.wf pw = true ∧ encode i = bytes

/-- A step runs the decoded instruction: a host packet that decodes to a transaction is executed on the state with that
event removed; the engine's move executes the step its phase code selects (30_encoding.md R84), when it is scheduled
and also when no event is. That the events are a list in the state, and that the engine moves when it is empty, is the model's
choice (notes/assumptions/4.md and 5.md). -/
def Obligations.StepRunsTheDecodedInstruction : Prop :=
  (∀ (s : State) (packet : List Byte) (rest : List Event) (i : Instr),
    s.events = .host packet :: rest → decode s.pwSize packet = .ok i → i.format ≠ .seq →
    step s = exec i { s with events := rest }) ∧
  (∀ (s : State) (rest : List Event) (i : Instr),
    s.events = .engine :: rest → decode s.pwSize [BitVec.setWidth 8 s.phase.code] = .ok i →
    step s = exec i { s with events := rest }) ∧
  (∀ (s : State) (i : Instr),
    s.events = [] → decode s.pwSize [BitVec.setWidth 8 s.phase.code] = .ok i → step s = exec i s)

/-- 30_encoding.md R84, 46_sequencer.md R230: in each BUSY phase the engine has exactly the step of its phase. -/
def Obligations.BusyPhaseSelectsItsEngineStep : Prop :=
  ∀ s : State, s.busy = true → ∃ i : Instr,
    (∀ j, s.fetchEngine = some j ↔ j = i) ∧
    (s.phase = .digestB → i = .seqDigestB) ∧ (s.phase = .digestA → i = .seqDigestA) ∧
    (s.phase = .dp → i = .seqDp) ∧ (s.phase = .ds → i = .seqDs) ∧
    (s.phase = .round → i = .seqRound) ∧ (s.phase = .encode → i = .seqEncode) ∧
    (∀ rest, s.events = .engine :: rest → step s = exec i { s with events := rest })

/-! ### CMD words -/

/-- 45_commands.md R207: NOP changes nothing, in every phase. -/
def Obligations.NopChangesNothing : Prop :=
  decodeCmd 0x00000000 = .nop ∧ ∀ s : State, exec .nop s = .next { s with response := .accepted }

/-- 45_commands.md R214, 30_encoding.md R83: every other CMD word sets CMDERR and nothing else, in every phase. -/
def Obligations.ReservedWordSetsCmderrOnly : Prop :=
  (∀ word : Word, 3 < word.toNat → decodeCmd word = .reserved word) ∧
  ∀ (word : Word) (s : State),
    exec (.reserved word) s = .next { s with cmderr := true, response := .accepted }

/-- 45_commands.md R208: START while BUSY sets CMDERR and nothing else. -/
def Obligations.StartWhileBusySetsCmderrOnly : Prop :=
  decodeCmd 0x00000001 = .start ∧
  ∀ s : State, s.busy = true → exec .start s = .next { s with cmderr := true, response := .accepted }

/-- 45_commands.md R210, 60_exceptions.md R259: START with illegal inputs reports the first failing check, zeroes the
outputs, wipes the internals and enters ERROR; the inputs, CMDERR, WERR and INTEN are unchanged. -/
def Obligations.StartReportsTheFirstFailingCheck : Prop :=
  ∀ s : State, s.busy = false → ¬ s.Legal → ∃ t : State,
    exec .start s = .next t ∧
    (¬ s.saltLenLegal → t.errcodeWord = 1) ∧
    (s.saltLenLegal → ¬ s.saltCharsLegal → t.errcodeWord = 1) ∧
    (s.saltLenLegal → s.saltCharsLegal → ¬ s.roundsLegal → t.errcodeWord = 2) ∧
    (s.saltLenLegal → s.saltCharsLegal → s.roundsLegal → ¬ s.variantLegal → t.errcodeWord = 3) ∧
    (s.saltLenLegal → s.saltCharsLegal → s.roundsLegal → s.variantLegal → ¬ s.passwordFits →
      t.errcodeWord = 4) ∧
    (∀ a, outputAddr a = true → t.mem.read a = 0) ∧
    (∀ a, outputAddr a = false → t.mem.read a = s.mem.read a) ∧
    t = { s with
      errcode := t.errcode, roundidx := 0, rawlen := 0, enclen := 0, mem := t.mem,
      db := [], da := [], pp := [], sp := [], acc := [], phase := .error, response := .accepted } ∧
    (s.cmderr = false → s.werr = false → t.status = if s.ie then 0x00001804 else 0x00000804)

/-- 45_commands.md R211: START with legal inputs clears ERRCODE, zeroes the outputs and enters DIGEST_B; BUSY is then
1 and DONE, ERR and IRQ are 0. -/
def Obligations.StartWithLegalInputsBegins : Prop :=
  ∀ s : State, s.busy = false → s.Legal → ∃ t : State,
    exec .start s = .next t ∧
    (∀ a, outputAddr a = true → t.mem.read a = 0) ∧
    (∀ a, outputAddr a = false → t.mem.read a = s.mem.read a) ∧
    t = { s with
      errcode := .none, roundidx := 0, rawlen := 0, enclen := 0, mem := t.mem, phase := .digestB,
      response := .accepted } ∧
    t.busy = true ∧ t.irq = false ∧
    (s.cmderr = false → s.werr = false → t.status = 0x00000101)

/-- 45_commands.md R212: ABORT while BUSY ends the run with ERRCODE 5 and wiped internals, ROUNDIDX kept; otherwise it
changes nothing. -/
def Obligations.AbortEndsABusyRunOnly : Prop :=
  decodeCmd 0x00000002 = .abort ∧ ErrCode.aborted.code = 5 ∧
  (∀ s : State, s.busy = true →
    exec .abort s = .next { s with
      errcode := .aborted, db := [], da := [], pp := [], sp := [], acc := [], phase := .error,
      response := .accepted }) ∧
  ∀ s : State, s.busy = false → exec .abort s = .next { s with response := .accepted }

/-- 45_commands.md R213: CLEAR when not BUSY gives everything but INTEN and PWMAX its reset value, and STATUS reads 0;
while BUSY it sets CMDERR and nothing else. -/
def Obligations.ClearWipesAllButInten : Prop :=
  decodeCmd 0x00000003 = .clear ∧
  (∀ s : State, s.busy = true → exec .clear s = .next { s with cmderr := true, response := .accepted }) ∧
  ∀ s : State, s.busy = false → ∃ t : State,
    exec .clear s = .next t ∧
    t = { State.resetAt s.pwSize with ie := s.ie, response := .accepted, events := s.events } ∧
    t.status = 0x00000000

/-- 45_commands.md R206: a write to CMD executes the command its data decodes to, and answers a next state. -/
def Obligations.CmdWriteExecutesItsCommand : Prop :=
  ∀ (data : Word) (s : State), ∃ t : State,
    exec (.busWCmd data) s = .next t ∧
    (data = 0x00000000 → exec .nop s = .next t) ∧ (data = 0x00000001 → exec .start s = .next t) ∧
    (data = 0x00000002 → exec .abort s = .next t) ∧ (data = 0x00000003 → exec .clear s = .next t) ∧
    (3 < data.toNat → exec (.reserved data) s = .next t)

/-! ### Bus writes -/

/-- 20_memory.md R61, 60_exceptions.md R252: an access that is not 4 bytes wide at a multiple of 4 gets a bus error
response and changes no state, read or write. -/
def Obligations.BadAccessGetsABusErrorOnly : Prop :=
  (∀ (pw : PwSize) (off : BitVec 12) (size : BitVec 8) (data : Word),
    (off.toNat % 4 ≠ 0 ∨ size.toNat ≠ 4) → decodeWrite pw off size data = .busWBad off size data) ∧
  (∀ (off : BitVec 12) (size : BitVec 8) (data : Word) (s : State),
    exec (.busWBad off size data) s = .next { s with response := .busError }) ∧
  ∀ (off : BitVec 12) (size : BitVec 8) (s : State), (off.toNat % 4 ≠ 0 ∨ size.toNat ≠ 4) →
    exec (.busR off size) s = .next { s with response := .busError }

/-- 45_commands.md R204: a write to INTEN stores bit 0 of the data, in every phase. -/
def Obligations.IntenWriteStoresBitZero : Prop :=
  ∀ (data : Word) (s : State), ∃ t : State,
    exec (.busWInten data) s = .next t ∧
    t = { s with ie := data.getLsbD 0, response := .accepted } ∧
    t.intenWord = BitVec.setWidth 32 (BitVec.extractLsb' 0 1 data) ∧
    ((s.phase = .done ∨ s.phase = .error) → data.getLsbD 0 = true → t.irq = true)

/-- 45_commands.md R201: when not BUSY an input write is stored: a register takes the whole word, a buffer the four
bytes, data bits [8j+7:8j] at offset + j; every other byte and every other piece of state is unchanged. -/
def Obligations.InputWritesAreStoredWhenNotBusy : Prop :=
  ∀ (s : State) (data : Word), s.busy = false →
    exec (.busWInputReg .variant data) s = .next { s with variant := data, response := .accepted } ∧
    exec (.busWInputReg .rounds data) s = .next { s with rounds := data, response := .accepted } ∧
    exec (.busWInputReg .pwlen data) s = .next { s with pwlen := data, response := .accepted } ∧
    exec (.busWInputReg .saltlen data) s = .next { s with saltlen := data, response := .accepted } ∧
    (∀ w : BitVec 2, ∃ t : State,
      exec (.busWSalt w data) s = .next t ∧
      t = { s with mem := t.mem, response := .accepted } ∧
      (∀ j, j < 4 → t.mem.read (0x040 + 4 * w.toNat + j) = BitVec.extractLsb' (8 * j) 8 data) ∧
      ∀ a, ¬ (0x040 + 4 * w.toNat ≤ a ∧ a < 0x040 + 4 * w.toNat + 4) → t.mem.read a = s.mem.read a) ∧
    ∀ w : BitVec 10, 4 * w.toNat < s.pwSize.bytes → ∃ t : State,
      exec (.busWPw w data) s = .next t ∧
      t = { s with mem := t.mem, response := .accepted } ∧
      (∀ j, j < 4 → t.mem.read (0x200 + 4 * w.toNat + j) = BitVec.extractLsb' (8 * j) 8 data) ∧
      ∀ a, ¬ (0x200 + 4 * w.toNat ≤ a ∧ a < 0x200 + 4 * w.toNat + 4) → t.mem.read a = s.mem.read a

/-- 45_commands.md R202: while BUSY an input write is dropped and sets WERR; a write to INTEN is not dropped. -/
def Obligations.InputWritesAreDroppedWhileBusy : Prop :=
  ∀ (s : State) (data : Word), s.busy = true →
    (∀ reg, exec (.busWInputReg reg data) s = .next { s with werr := true, response := .accepted }) ∧
    (∀ w, exec (.busWSalt w data) s = .next { s with werr := true, response := .accepted }) ∧
    (∀ w : BitVec 10, 4 * w.toNat < s.pwSize.bytes →
      exec (.busWPw w data) s = .next { s with werr := true, response := .accepted }) ∧
    exec (.busWInten data) s = .next { s with ie := data.getLsbD 0, response := .accepted }

/-- 45_commands.md R203, 20_memory.md R64: an aligned 4-byte write to a read-only register, to RAW or ENC or to a
reserved offset, the PW offsets at and above PW_MAX included, changes no state and sets no flag. The third clause, that
BUS_W_PW at such an index, a form the decoder never produces, is ignored too, is the model's choice
(DEDUCED, notes/assumptions/13.md). -/
def Obligations.ReadOnlyAndReservedWritesAreIgnored : Prop :=
  (∀ (pw : PwSize) (off : BitVec 12) (data : Word), off.toNat % 4 = 0 →
    (off.toNat = 0x004 ∨ off.toNat = 0x008 ∨ (0x020 ≤ off.toNat ∧ off.toNat < 0x040) ∨
      (0x050 ≤ off.toNat ∧ off.toNat < 0x200) ∨ 0x200 + pw.bytes ≤ off.toNat) →
    decodeWrite pw off 4 data = .busWIgnored off data) ∧
  (∀ (off : BitVec 12) (data : Word) (s : State),
    exec (.busWIgnored off data) s = .next { s with response := .accepted }) ∧
  ∀ (w : BitVec 10) (data : Word) (s : State), s.pwSize.bytes ≤ 4 * w.toNat →
    exec (.busWPw w data) s = .next { s with response := .accepted }

/-! ### Bus reads -/

/-- 45_commands.md R205: the word a read returns, offset by offset, and that nothing else changes. -/
def Obligations.ReadReturnsTheMappedWord : Prop :=
  (∀ (s : State) (off : BitVec 12), off.toNat % 4 = 0 → ∃ v : Word,
    exec (.busR off 4) s = .next { s with response := .data v } ∧
    (off.toNat = 0x000 → v = 0) ∧
    (off.toNat = 0x004 → v = s.status) ∧
    (off.toNat = 0x008 → v.toNat = s.errcode.code.toNat) ∧
    (off.toNat = 0x00C → v.toNat = if s.ie then 1 else 0) ∧
    (off.toNat = 0x010 → v = s.variant) ∧ (off.toNat = 0x014 → v = s.rounds) ∧
    (off.toNat = 0x018 → v = s.pwlen) ∧ (off.toNat = 0x01C → v = s.saltlen) ∧
    (off.toNat = 0x020 → v = s.roundidx) ∧ (off.toNat = 0x024 → v = s.rawlen) ∧
    (off.toNat = 0x028 → v = s.enclen) ∧ (off.toNat = 0x02C → v.toNat = s.pwSize.bytes) ∧
    (((0x040 ≤ off.toNat ∧ off.toNat < 0x050) ∨ (0x080 ≤ off.toNat ∧ off.toNat < 0x118)) →
      v.toNat = (s.mem.read off.toNat).toNat + (s.mem.read (off.toNat + 1)).toNat * 2 ^ 8 +
        (s.mem.read (off.toNat + 2)).toNat * 2 ^ 16 + (s.mem.read (off.toNat + 3)).toNat * 2 ^ 24) ∧
    (((0x030 ≤ off.toNat ∧ off.toNat < 0x040) ∨ (0x050 ≤ off.toNat ∧ off.toNat < 0x080) ∨ 0x118 ≤ off.toNat) →
      v = 0)) ∧
  ∀ (off : BitVec 12) (size : BitVec 8) (s : State), (off.toNat % 4 ≠ 0 ∨ size.toNat ≠ 4) →
    exec (.busR off size) s = .next { s with response := .busError }

/-- 20_memory.md R66: a read changes no state but the response port, and a second read of the same offset returns the
same value, whatever was read in between. -/
def Obligations.ReadsHaveNoSideEffects : Prop :=
  ∀ (s : State) (off : BitVec 12) (size : BitVec 8), ∃ t : State,
    exec (.busR off size) s = .next t ∧
    t = { s with response := t.response } ∧
    ∀ r : BusResponse, exec (.busR off size) { s with response := r } = .next t

/-- 10_state.md R25: STATUS field by field, and exactly one of BUSY, DONE and ERR is 1 unless the phase is IDLE. -/
def Obligations.StatusShowsItsFields : Prop :=
  ∀ s : State,
    s.status.getLsbD 0 = s.busy ∧
    s.status.getLsbD 1 = (s.phase = .done : Bool) ∧
    s.status.getLsbD 2 = (s.phase = .error : Bool) ∧
    s.status.getLsbD 3 = s.cmderr ∧ s.status.getLsbD 4 = s.werr ∧
    BitVec.extractLsb' 5 3 s.status = 0 ∧
    BitVec.extractLsb' 8 4 s.status = s.phase.code ∧
    s.status.getLsbD 12 = s.irq ∧
    BitVec.extractLsb' 13 19 s.status = 0 ∧
    (s.phase = .idle → BitVec.extractLsb' 0 3 s.status = 0) ∧
    (s.phase ≠ .idle →
      BitVec.extractLsb' 0 3 s.status = 1 ∨ BitVec.extractLsb' 0 3 s.status = 2 ∨
        BitVec.extractLsb' 0 3 s.status = 4)

/-- 60_exceptions.md R256: the level of IRQ, the events that raise it and the events that drop it. -/
def Obligations.InterruptFollowsEnableAndPhase : Prop :=
  (∀ s : State, (s.irq = true ↔ s.ie = true ∧ (s.phase = .done ∨ s.phase = .error)) ∧
    s.status.getLsbD 12 = s.irq) ∧
  (∀ s : State, ∃ t, exec .seqEncode s = .next t ∧ t.irq = s.ie) ∧
  (∀ s : State, s.busy = false → ¬ s.Legal → ∃ t, exec .start s = .next t ∧ t.irq = s.ie) ∧
  (∀ s : State, s.busy = false → s.Legal → ∃ t, exec .start s = .next t ∧ t.irq = false) ∧
  (∀ s : State, s.busy = true → ∃ t, exec .abort s = .next t ∧ t.irq = s.ie) ∧
  (∀ s : State, s.busy = false → ∃ t, exec .clear s = .next t ∧ t.irq = false) ∧
  (∀ (s : State) (data : Word), ∃ t, exec (.busWInten data) s = .next t ∧
    (t.irq = true ↔ data.getLsbD 0 = true ∧ (s.phase = .done ∨ s.phase = .error))) ∧
  (∀ s : State, s.resetNext → ∃ t, step s = .next t ∧ t.irq = false) ∧
  ∀ s : State, s.ie = true → s.phase = .done → s.cmderr = false → s.werr = false → s.status = 0x00001702

/-! ### The engine's steps -/

/-- 46_sequencer.md R231: SEQ_DIGEST_B. -/
def Obligations.SeqDigestBComputesDigestB : Prop :=
  ∀ s : State, ∃ t : State,
    exec .seqDigestB s = .next t ∧
    t.digestBReg = digest s.variant (s.password ++ s.salt ++ s.password) ∧
    (∀ k, digestLen s.variant ≤ k → t.db.read k = s.db.read k) ∧
    t = { s with db := t.db, acc := [], phase := .digestA }

/-- 46_sequencer.md R232: SEQ_DIGEST_A. -/
def Obligations.SeqDigestAComputesDigestA : Prop :=
  ∀ s : State, ∃ t : State,
    exec .seqDigestA s = .next t ∧
    t.digestAReg = digest s.variant
      (s.password ++ s.salt ++ expandToLength s.digestBReg s.pwlen.toNat ++
        altSeq s.pwlen.toNat s.digestBReg s.password) ∧
    (∀ k, digestLen s.variant ≤ k → t.da.read k = s.da.read k) ∧
    t = { s with da := t.da, acc := [], phase := .dp }

/-- 46_sequencer.md R233: SEQ_DP. The register is PW_MAX bytes wide, so its value is stated for the lengths START
admits; the step completes in every state. -/
def Obligations.SeqDpComputesThePasswordSequence : Prop :=
  ∀ s : State, ∃ t : State,
    exec .seqDp s = .next t ∧
    (s.passwordFits → t.ppReg =
      expandToLength (digest s.variant (List.replicate s.pwlen.toNat s.password).flatten) s.pwlen.toNat) ∧
    (∀ k, s.pwlen.toNat ≤ k → t.pp.read k = s.pp.read k) ∧
    t = { s with pp := t.pp, acc := [], phase := .ds }

/-- 46_sequencer.md R234, 90_conflicts.md C1: SEQ_DS repeats the salt 16 + DA[0] times. The register is 16 bytes
wide, so its value is stated for the lengths START admits; the step completes in every state. -/
def Obligations.SeqDsComputesTheSaltSequence : Prop :=
  ∀ s : State, ∃ t : State,
    exec .seqDs s = .next t ∧
    (s.saltlen.toNat ≤ 16 → t.spReg =
      expandToLength
        (digest s.variant (List.replicate (16 + (s.da.read 0).toNat) s.salt).flatten) s.saltlen.toNat) ∧
    (∀ k, s.saltlen.toNat ≤ k → t.sp.read k = s.sp.read k) ∧
    t = { s with sp := t.sp, acc := [], phase := .round }

/-- 46_sequencer.md R235: SEQ_ROUND hashes the round message, counts the round, and leaves ROUND after the last. -/
def Obligations.SeqRoundMixesOneRound : Prop :=
  ∀ s : State, ∃ t : State,
    exec .seqRound s = .next t ∧
    t.digestAReg = digest s.variant (roundMessage s.roundidx.toNat s.digestAReg s.ppReg s.spReg) ∧
    (∀ k, digestLen s.variant ≤ k → t.da.read k = s.da.read k) ∧
    (s.roundidx.toNat < s.rounds.toNat → t.roundidx.toNat = s.roundidx.toNat + 1) ∧
    (s.roundidx.toNat + 1 = s.rounds.toNat → t.phase = .encode) ∧
    (s.roundidx.toNat + 1 ≠ s.rounds.toNat → t.phase = .round) ∧
    t = { s with da := t.da, roundidx := t.roundidx, acc := [], phase := t.phase }

/-- 46_sequencer.md R236: SEQ_ENCODE publishes the digest and its encoding, wipes the internals and enters DONE. -/
def Obligations.SeqEncodePublishesTheResult : Prop :=
  ∀ s : State, ∃ t : State,
    exec .seqEncode s = .next t ∧
    (∀ k, k < digestLen s.variant → t.mem.read (0x080 + k) = s.digestAReg.getD k 0) ∧
    (∀ k, k < encodedLen s.variant →
      t.mem.read (0x0C0 + k) = (encodeDigest s.variant s.digestAReg).getD k 0) ∧
    (∀ a, ¬ (0x080 ≤ a ∧ a < 0x080 + digestLen s.variant) →
      ¬ (0x0C0 ≤ a ∧ a < 0x0C0 + encodedLen s.variant) → t.mem.read a = s.mem.read a) ∧
    t.rawlen.toNat = digestLen s.variant ∧ t.enclen.toNat = encodedLen s.variant ∧
    t = { s with
      mem := t.mem, rawlen := t.rawlen, enclen := t.enclen, db := [], da := [], pp := [], sp := [], acc := [],
      phase := .done }

/-! ### The digest engine, the byte sequences, the round message -/

/-- 40_digest_engine.md R106: the digest does not depend on how the message is split into appends, and the accumulator
is empty afterwards. -/
def Obligations.AppendsStreamIntoOneMessage : Prop :=
  ∀ (s : State) (parts : List (List Byte)),
    s.hashParts parts = (digest s.variant parts.flatten, { s with acc := [] })

/-- 40_digest_engine.md R100: SHA-256 and SHA-512 return 32 and 64 bytes for every message. -/
def Obligations.DigestHasTheVariantsLength : Prop :=
  ∀ m : List Byte, digest 5 m = sha256 m ∧ digest 6 m = sha512 m ∧
    (sha256 m).length = 32 ∧ (sha512 m).length = 64

/-- 40_digest_engine.md R109, R113: the padding is the least that fills whole blocks with the length at the end. -/
def Obligations.PaddingIsTheLeastThatFillsBlocks : Prop :=
  ∀ n : Nat,
    (n + 1 + sha256Params.zeroPad n) % 64 = 56 ∧ (∀ k, k < sha256Params.zeroPad n → (n + 1 + k) % 64 ≠ 56) ∧
    (n + 1 + sha512Params.zeroPad n) % 128 = 112 ∧ ∀ k, k < sha512Params.zeroPad n → (n + 1 + k) % 128 ≠ 112

/-- 41_byte_sequence.md R120, R121: the expansion has exactly the asked length and repeats the seed byte by byte;
length 0 gives the empty sequence for every seed. -/
def Obligations.ExpandRepeatsTheSeedToLength : Prop :=
  (∀ seed : List Byte, expandToLength seed 0 = []) ∧
  ∀ (seed : List Byte) (n : Nat), 0 < seed.length →
    (expandToLength seed n).length = n ∧
    ∀ k, k < n → (expandToLength seed n).getD k 0 = seed.getD (k % seed.length) 0

/-- 41_byte_sequence.md R124: one choice per bit, least significant first, ending with the set-bit choice. -/
def Obligations.AlternatingSequenceFollowsTheBits : Prop :=
  ∀ x y : List Byte,
    altSeq 0 x y = [] ∧
    ∀ n, 0 < n →
      altSeq n x y = selectByParity (n % 2 = 1) x y ++ altSeq (n / 2) x y ∧
      ∃ front, altSeq n x y = front ++ x

/-- 41_byte_sequence.md R125: the two lengths. -/
def Obligations.ByteSequenceLengths : Prop :=
  (∀ (seed : List Byte) (n : Nat), 0 < seed.length → (expandToLength seed n).length = n) ∧
  ∀ (n : Nat) (x y : List Byte),
    (altSeq n x y).length = popcount n * x.length + (bitlen n - popcount n) * y.length

/-- 42_core_algorithm.md R135: the eight shapes of the round message. -/
def Obligations.RoundMessageHasEightShapes : Prop :=
  ∀ (i : Nat) (a p s : List Byte),
    (i % 2 = 0 → i % 3 = 0 → i % 7 = 0 → roundMessage i a p s = a ++ p) ∧
    (i % 2 = 0 → i % 3 = 0 → i % 7 ≠ 0 → roundMessage i a p s = a ++ p ++ p) ∧
    (i % 2 = 0 → i % 3 ≠ 0 → i % 7 = 0 → roundMessage i a p s = a ++ s ++ p) ∧
    (i % 2 = 0 → i % 3 ≠ 0 → i % 7 ≠ 0 → roundMessage i a p s = a ++ s ++ p ++ p) ∧
    (i % 2 = 1 → i % 3 = 0 → i % 7 = 0 → roundMessage i a p s = p ++ a) ∧
    (i % 2 = 1 → i % 3 = 0 → i % 7 ≠ 0 → roundMessage i a p s = p ++ p ++ a) ∧
    (i % 2 = 1 → i % 3 ≠ 0 → i % 7 = 0 → roundMessage i a p s = p ++ s ++ a) ∧
    (i % 2 = 1 → i % 3 ≠ 0 → i % 7 ≠ 0 → roundMessage i a p s = p ++ s ++ p ++ a)

/-! ### The encoder and the host's codec -/

/-- 43_encoder.md R154, 00_scope.md R2: 43 or 86 symbols of the alphabet, the last of bounded index. -/
def Obligations.EncodingHasTheVariantsLength : Prop :=
  ∀ d : List Byte,
    (encodeDigest 5 d).length = 43 ∧ (encodeDigest 6 d).length = 86 ∧
    (∀ c ∈ encodeDigest 5 d, c ∈ alphabet) ∧ (∀ c ∈ encodeDigest 6 d, c ∈ alphabet) ∧
    (∃ i, symbolIndex ((encodeDigest 5 d).getD 42 0) = some i ∧ i ≤ 15) ∧
    ∃ i, symbolIndex ((encodeDigest 6 d).getD 85 0) = some i ∧ i ≤ 3

/-- 43_encoder.md R158: decoding inverts encoding, encoding is injective, and re-encoding gives the string back exactly
when it is canonical (R157: the unused top bits of the last group are zero). -/
def Obligations.EncoderLaws : Prop :=
  (∀ d : List Byte, d.length = 32 → decodeDigest 5 (encodeDigest 5 d) = some d) ∧
  (∀ d : List Byte, d.length = 64 → decodeDigest 6 (encodeDigest 6 d) = some d) ∧
  (∀ d e : List Byte, d.length = 32 → e.length = 32 → encodeDigest 5 d = encodeDigest 5 e → d = e) ∧
  (∀ d e : List Byte, d.length = 64 → e.length = 64 → encodeDigest 6 d = encodeDigest 6 e → d = e) ∧
  (∀ t d : List Byte, decodeDigest 5 t = some d →
    (encodeDigest 5 d = t ↔ ∃ i, symbolIndex (t.getD 42 0) = some i ∧ i < 16)) ∧
  ∀ t d : List Byte, decodeDigest 6 t = some d →
    (encodeDigest 6 d = t ↔ ∃ i, symbolIndex (t.getD 85 0) = some i ∧ i < 4)

/-- 44_hash_string_codec.md R173: decimal digits that give the number back, at least one, with no leading zero. -/
def Obligations.DecimalRenderingIsCanonical : Prop :=
  ∀ n : Nat, decValue (dec n) = n ∧ (∀ c ∈ dec n, isDigit c = true) ∧ dec n ≠ [] ∧
    ((dec n).head? = some 0x30 → dec n = [0x30])

/-- 44_hash_string_codec.md R172, R174-R178: parsing inverts formatting. -/
def Obligations.ParseInvertsFormat : Prop :=
  ∀ h : ParsedHash, (h.variant = 5 ∨ h.variant = 6) → 1000 ≤ h.rounds → h.rounds ≤ 999999999 →
    1 ≤ h.salt.length → h.salt.length ≤ 16 → (∀ c ∈ h.salt, legalSaltByte c) →
    (∃ d, decodeDigest h.variant h.field = some d) →
    parseHash (formatHash h) = .ok h

/-- 44_hash_string_codec.md R174-R178: what parses has a listed variant, rounds and a salt in range, and a digest field
that decodes. -/
def Obligations.ParsedHashIsLegal : Prop :=
  ∀ (e : List Byte) (h : ParsedHash), parseHash e = .ok h →
    (h.variant = 5 ∨ h.variant = 6) ∧ 1000 ≤ h.rounds ∧ h.rounds ≤ 999999999 ∧
    1 ≤ h.salt.length ∧ h.salt.length ≤ 16 ∧ (∀ c ∈ h.salt, legalSaltByte c) ∧
    h.field.length = encodedLen h.variant ∧ ∃ d, decodeDigest h.variant h.field = some d

/-- 30_encoding.md R90, 00_scope.md R8: the host's `W` and `R` lines are the bus transactions they stand for, and every
offset of the window has its platform address. -/
def Obligations.HostLinesAreBusTransactions : Prop :=
  (∀ (s : State) (off : BitVec 12) (data : Word), ∃ t : State,
    hostWrite off data s = some t ∧ exec (decodeWrite s.pwSize off 4 data) s = .next t) ∧
  (∀ (s : State) (off : BitVec 12), off.toNat % 4 = 0 → ∃ v : Word,
    hostRead off s = some (v, { s with response := .data v }) ∧
    exec (.busR off 4) s = .next { s with response := .data v }) ∧
  ∀ off : BitVec 12, windowOffset (Config.base + off.toNat) = some off

/-! ### Whole-machine rules -/

/-- Every instruction of the table answers a next state, on every operand and in every state: the block never stops
(60_exceptions.md R250, R252; 46_sequencer.md R230). -/
def Obligations.EveryInstructionAnswers : Prop := ∀ (i : Instr) (s : State), ∃ t : State, exec i s = .next t

/-- A step answers a next state unless the next event is a host packet that is no transaction. That such a
packet is refused is the model's choice (notes/assumptions/6.md). -/
def Obligations.StepStopsOnlyAtAnUndecodablePacket : Prop :=
  ∀ s : State, (∃ t, step s = .next t) ∨
    ∃ packet rest e, s.events = .host packet :: rest ∧ decodeHost s.pwSize packet = .error e ∧
      step s = .refused (.undecodable e)

/-- 10_state.md R50 with R36-R45: every step from a state with the invariant keeps it. -/
def Obligations.StepKeepsTheInvariant : Prop :=
  ∀ s t : State, s.Inv → step s = .next t → t.Inv

/-- 10_state.md R37, R38, 43_encoder.md R155: in DONE, ENC is the encoding of RAW; every step keeps this. -/
def Obligations.StepKeepsOutputsInAgreement : Prop :=
  ∀ s t : State, s.Inv → s.OutputsAgree → step s = .next t → t.OutputsAgree

/-- 46_sequencer.md R237: outside BUSY the engine has no step, and only START, CLEAR and reset leave the phase. -/
def Obligations.OnlyCommandsLeaveAQuiescentPhase : Prop :=
  (∀ s : State, s.busy = false → s.fetchEngine = none) ∧
  ∀ s t : State, s.busy = false → step s = .next t → t.phase ≠ s.phase →
    s.resetNext ∨ ∃ i, s.hostNext = some i ∧ (i.isStart ∨ i.isClear)

/-- 60_exceptions.md R268: outside BUSY the block is quiescent. That an engine event is then consumed without effect,
and that a state with no event steps to itself, is the model's choice (notes/assumptions/5.md). -/
def Obligations.EngineEventsOutsideBusyDoNothing : Prop :=
  ∀ s : State, s.busy = false →
    (s.events = [] → step s = .next s) ∧
    ∀ rest, s.events = .engine :: rest → step s = .next { s with events := rest }

/-- 45_commands.md R202, 70_reset_and_hazards.md R284: while BUSY no event but reset changes an input. -/
def Obligations.InputsAreFrozenWhileBusy : Prop :=
  ∀ s t : State, s.busy = true → ¬ s.resetNext → step s = .next t →
    t.variant = s.variant ∧ t.rounds = s.rounds ∧ t.pwlen = s.pwlen ∧ t.saltlen = s.saltlen ∧
    ∀ a, inputAddr s.pwSize a = true → t.mem.read a = s.mem.read a

/-- 10_state.md R26, 60_exceptions.md R251: who changes ERRCODE, and to what. -/
def Obligations.OnlyStartAbortClearAndResetWriteErrcode : Prop :=
  ∀ s t : State, step s = .next t → t.errcode ≠ s.errcode →
    (s.resetNext ∧ t.errcode = .none) ∨
    ∃ i, s.hostNext = some i ∧
      ((i.isStart ∧ s.busy = false ∧ t.errcode ≠ .aborted) ∨
        (i.isAbort ∧ s.busy = true ∧ t.errcode = .aborted) ∨
        (i.isClear ∧ s.busy = false ∧ t.errcode = .none))

/-- 60_exceptions.md R253, R254: what sets CMDERR and WERR, and that only CLEAR when not BUSY and reset clear them. -/
def Obligations.StickyBitsAreSetAndClearedAsListed : Prop :=
  ∀ s t : State, step s = .next t →
    (s.cmderr = true → t.cmderr = false →
      s.resetNext ∨ (s.busy = false ∧ ∃ i, s.hostNext = some i ∧ i.isClear)) ∧
    (s.werr = true → t.werr = false →
      s.resetNext ∨ (s.busy = false ∧ ∃ i, s.hostNext = some i ∧ i.isClear)) ∧
    (s.cmderr = false → t.cmderr = true → ∃ i, s.hostNext = some i ∧
      (i.isReserved ∨ (s.busy = true ∧ (i.isStart ∨ i.isClear)))) ∧
    (s.werr = false → t.werr = true → s.busy = true ∧ ∃ i, s.hostNext = some i ∧ i.isInputWrite)

/-- 10_state.md R27, 45_commands.md R204, R213: INTEN changes only by a write to it and by reset. -/
def Obligations.OnlyIntenWritesAndResetChangeInten : Prop :=
  ∀ s t : State, step s = .next t → t.ie ≠ s.ie →
    s.resetNext ∨ ∃ data, s.hostNext = some (.busWInten data) ∧ t.ie = data.getLsbD 0

/-- 10_state.md R35: PWMAX is a constant. -/
def Obligations.PwmaxIsConstant : Prop :=
  ∀ s t : State, step s = .next t → t.pwSize = s.pwSize ∧ t.readOffset 0x02C = s.readOffset 0x02C ∧
    (t.readOffset 0x02C).toNat = s.pwSize.bytes

/-- 20_memory.md R70: in DONE the outputs stay as they are, over any number of steps, until a START, a CLEAR or a
reset. The premise names no event that is one of these, whether sent as a bus write or as a CMD word. -/
def Obligations.OutputsStayUntilACommand : Prop :=
  ∀ (n : Nat) (s t : State), s.phase = .done →
    (∀ e ∈ s.events, e ≠ .reset ∧ ∀ packet i, e = .host packet → decodeHost s.pwSize packet = .ok i →
      ¬ i.isStart ∧ ¬ i.isClear) →
    runSteps n s = .next t →
    t.phase = .done ∧ t.rawBuffer = s.rawBuffer ∧ t.encBuffer = s.encBuffer ∧
      t.rawlen = s.rawlen ∧ t.enclen = s.enclen ∧ t.roundidx = s.roundidx

/-- 10_state.md R39, 60_exceptions.md R267: no read and no interrupt level depends on the password, the internal
digests or the accumulator. -/
def Obligations.SecretsAreNotObservable : Prop :=
  ∀ (s t : State) (off : BitVec 12) (size : BitVec 8), sameVisible s t →
    s.irq = t.irq ∧ ∃ r : BusResponse,
      exec (.busR off size) s = .next { s with response := r } ∧
      exec (.busR off size) t = .next { t with response := r }

/-- 70_reset_and_hazards.md R285: ABORT racing the last engine step. ABORT first gives ERROR with ERRCODE 5 and zero
outputs; SEQ_ENCODE first gives DONE with the complete outputs, and the ABORT then changes nothing. -/
def Obligations.AbortRacesTheLastStep : Prop :=
  ∀ s : State, s.Inv → s.phase = .encode →
    (∃ t, runSteps 2 { s with events := [.host (writePacket 0x000 4 0x00000002), .engine] } = .next t ∧
      t.phase = .error ∧ t.errcode = .aborted ∧ ∀ a, outputAddr a = true → t.mem.read a = 0) ∧
    ∃ t u, runSteps 1 { s with events := [.engine, .host (writePacket 0x000 4 0x00000002)] } = .next u ∧
      exec .seqEncode { s with events := [.host (writePacket 0x000 4 0x00000002)] } = .next u ∧
      runSteps 2 { s with events := [.engine, .host (writePacket 0x000 4 0x00000002)] } = .next t ∧
      t.phase = .done ∧ t = { u with events := [], response := .accepted }

/-- 46_sequencer.md R240, 45_commands.md R215, 42_core_algorithm.md R140: a START with legal inputs and then exactly
r + 5 engine steps end in DONE, BUSY until the last, with RAW the Core digest and ENC its encoding. That the engine moves when no event is
scheduled is the model's choice (notes/assumptions/5.md). -/
def Obligations.StartThenEngineStepsComputeTheHash : Prop :=
  ∀ s : State, s.busy = false → s.Legal → s.events = [] →
    let r := s.rounds.toNat
    let begun : State := { s with events := [.host (writePacket 0x000 4 0x00000001)] }
    let d := coreDigest s.variant s.password s.salt r
    (∀ k, k < r + 5 → ∃ u, runSteps (1 + k) begun = .next u ∧ u.busy = true) ∧
    ∃ t, runSteps (1 + (r + 5)) begun = .next t ∧
      t.phase = .done ∧ t.errcode = .none ∧ t.roundidx = s.rounds ∧
      t.rawBuffer = d ++ List.replicate (64 - digestLen s.variant) 0 ∧
      t.encBuffer = encodeDigest s.variant d ++ List.replicate (88 - encodedLen s.variant) 0 ∧
      t.rawlen.toNat = digestLen s.variant ∧ t.enclen.toNat = encodedLen s.variant ∧
      t.db = [] ∧ t.da = [] ∧ t.pp = [] ∧ t.sp = [] ∧ t.acc = [] ∧
      t.variant = s.variant ∧ t.rounds = s.rounds ∧ t.password = s.password ∧ t.salt = s.salt

/-- 46_sequencer.md R238, R240: from every BUSY state with the invariant, the engine alone reaches DONE within r + 5
steps. That the engine moves when no event is scheduled is the model's choice (notes/assumptions/5.md). -/
def Obligations.EveryStartedComputationEnds : Prop :=
  ∀ s : State, s.Inv → s.busy = true → s.events = [] →
    ∃ n t, n ≤ s.rounds.toNat + 5 ∧ runSteps n s = .next t ∧ t.phase = .done
end

