-- ==== Sys2Proof/Laws/Bytes.lean ====
section
/-! SUPPORT. The little-endian byte order of 20_memory.md R62 and the offset field of a packet. -/

namespace Sys2Proof

@[simp] theorem length_leBytes (n v : Nat) : (leBytes n v).length = n := by
  induction n generalizing v with
  | zero => rfl
  | succ n ih => simp [leBytes, ih]

@[simp] theorem length_wordBytes (w : Word) : (wordBytes w).length = 4 := length_leBytes 4 _

/-- The value of a number's bytes is the number, as far as the bytes reach. -/
theorem leNat_leBytes (n v : Nat) : leNat (leBytes n v) = v % 256 ^ n := by
  induction n generalizing v with
  | zero => simp [leBytes, leNat, Nat.mod_one]
  | succ n ih =>
    rw [Nat.pow_succ, Nat.mul_comm (256 ^ n) 256, Nat.mod_mul]
    simp only [leBytes, leNat, ih, BitVec.toNat_ofNat]

/-- The bytes of the value of a byte sequence are the sequence. -/
theorem leBytes_leNat (bs : List Byte) : leBytes bs.length (leNat bs) = bs := by
  induction bs with
  | nil => rfl
  | cons b bs ih =>
    have hb := b.isLt
    have h1 : BitVec.ofNat 8 (b.toNat + 256 * leNat bs) = b := by
      apply BitVec.eq_of_toNat_eq
      simp only [BitVec.toNat_ofNat]
      omega
    have h2 : (b.toNat + 256 * leNat bs) / 256 = leNat bs := by omega
    simp only [List.length_cons, leBytes, leNat, h1, h2, ih]

theorem leNat_lt (bs : List Byte) : leNat bs < 256 ^ bs.length := by
  induction bs with
  | nil => simp [leNat]
  | cons b bs ih =>
    have hb := b.isLt
    simp only [leNat, List.length_cons, Nat.pow_succ]
    omega

/-- The word of a word's bytes is the word. -/
@[simp] theorem bytesWord_wordBytes (w : Word) : bytesWord (wordBytes w) = w := by
  apply BitVec.eq_of_toNat_eq
  have hw := w.isLt
  simp only [bytesWord, wordBytes, leNat_leBytes, BitVec.toNat_ofNat]
  omega

/-- The bytes of the word of four bytes are those bytes. -/
theorem wordBytes_bytesWord (bs : List Byte) (h : bs.length = 4) : wordBytes (bytesWord bs) = bs := by
  have hlt := leNat_lt bs
  rw [h] at hlt
  have he : (bytesWord bs).toNat = leNat bs := by
    simp only [bytesWord, BitVec.toNat_ofNat]
    omega
  have := leBytes_leNat bs
  rw [h] at this
  rw [wordBytes, he, this]

/-- An offset's two bytes decode to the offset. -/
theorem decodeOff_leBytes (off : BitVec 12) (b0 b1 : Byte) (h : leBytes 2 off.toNat = [b0, b1]) :
    decodeOff b0 b1 = .ok off := by
  have ho := off.isLt
  have hv : leNat [b0, b1] = off.toNat := by
    rw [← h, leNat_leBytes]
    omega
  have hlt : off.toNat < 4096 := by omega
  simp only [decodeOff, hv, hlt, if_true, BitVec.ofNat_toNat, BitVec.setWidth_eq]

end Sys2Proof
end

