-- ==== Sys2Proof/Laws/State.lean ====
section
/-! SUPPORT. What each named update of the state does to each field, so that no proof unfolds a record update. -/

namespace Sys2Proof.Machine

/-! ### `State.respond`: only the response changes (30_encoding.md R80) -/

@[simp] theorem State.respond_phase (s : State) (r : BusResponse) : (s.respond r).phase = s.phase := rfl
@[simp] theorem State.respond_cmderr (s : State) (r : BusResponse) : (s.respond r).cmderr = s.cmderr := rfl
@[simp] theorem State.respond_werr (s : State) (r : BusResponse) : (s.respond r).werr = s.werr := rfl
@[simp] theorem State.respond_errcode (s : State) (r : BusResponse) : (s.respond r).errcode = s.errcode := rfl
@[simp] theorem State.respond_ie (s : State) (r : BusResponse) : (s.respond r).ie = s.ie := rfl
@[simp] theorem State.respond_variant (s : State) (r : BusResponse) : (s.respond r).variant = s.variant := rfl
@[simp] theorem State.respond_rounds (s : State) (r : BusResponse) : (s.respond r).rounds = s.rounds := rfl
@[simp] theorem State.respond_pwlen (s : State) (r : BusResponse) : (s.respond r).pwlen = s.pwlen := rfl
@[simp] theorem State.respond_saltlen (s : State) (r : BusResponse) : (s.respond r).saltlen = s.saltlen := rfl
@[simp] theorem State.respond_roundidx (s : State) (r : BusResponse) : (s.respond r).roundidx = s.roundidx := rfl
@[simp] theorem State.respond_rawlen (s : State) (r : BusResponse) : (s.respond r).rawlen = s.rawlen := rfl
@[simp] theorem State.respond_enclen (s : State) (r : BusResponse) : (s.respond r).enclen = s.enclen := rfl
@[simp] theorem State.respond_pwSize (s : State) (r : BusResponse) : (s.respond r).pwSize = s.pwSize := rfl
@[simp] theorem State.respond_mem (s : State) (r : BusResponse) : (s.respond r).mem = s.mem := rfl
@[simp] theorem State.respond_db (s : State) (r : BusResponse) : (s.respond r).db = s.db := rfl
@[simp] theorem State.respond_da (s : State) (r : BusResponse) : (s.respond r).da = s.da := rfl
@[simp] theorem State.respond_pp (s : State) (r : BusResponse) : (s.respond r).pp = s.pp := rfl
@[simp] theorem State.respond_sp (s : State) (r : BusResponse) : (s.respond r).sp = s.sp := rfl
@[simp] theorem State.respond_acc (s : State) (r : BusResponse) : (s.respond r).acc = s.acc := rfl
@[simp] theorem State.respond_response (s : State) (r : BusResponse) : (s.respond r).response = r := rfl
@[simp] theorem State.respond_events (s : State) (r : BusResponse) : (s.respond r).events = s.events := rfl

/-! ### `State.engineReset`: 40_digest_engine.md R103 -/

@[simp] theorem State.engineReset_phase (s : State) : (s.engineReset).phase = s.phase := rfl
@[simp] theorem State.engineReset_cmderr (s : State) : (s.engineReset).cmderr = s.cmderr := rfl
@[simp] theorem State.engineReset_werr (s : State) : (s.engineReset).werr = s.werr := rfl
@[simp] theorem State.engineReset_errcode (s : State) : (s.engineReset).errcode = s.errcode := rfl
@[simp] theorem State.engineReset_ie (s : State) : (s.engineReset).ie = s.ie := rfl
@[simp] theorem State.engineReset_variant (s : State) : (s.engineReset).variant = s.variant := rfl
@[simp] theorem State.engineReset_rounds (s : State) : (s.engineReset).rounds = s.rounds := rfl
@[simp] theorem State.engineReset_pwlen (s : State) : (s.engineReset).pwlen = s.pwlen := rfl
@[simp] theorem State.engineReset_saltlen (s : State) : (s.engineReset).saltlen = s.saltlen := rfl
@[simp] theorem State.engineReset_roundidx (s : State) : (s.engineReset).roundidx = s.roundidx := rfl
@[simp] theorem State.engineReset_rawlen (s : State) : (s.engineReset).rawlen = s.rawlen := rfl
@[simp] theorem State.engineReset_enclen (s : State) : (s.engineReset).enclen = s.enclen := rfl
@[simp] theorem State.engineReset_pwSize (s : State) : (s.engineReset).pwSize = s.pwSize := rfl
@[simp] theorem State.engineReset_mem (s : State) : (s.engineReset).mem = s.mem := rfl
@[simp] theorem State.engineReset_db (s : State) : (s.engineReset).db = s.db := rfl
@[simp] theorem State.engineReset_da (s : State) : (s.engineReset).da = s.da := rfl
@[simp] theorem State.engineReset_pp (s : State) : (s.engineReset).pp = s.pp := rfl
@[simp] theorem State.engineReset_sp (s : State) : (s.engineReset).sp = s.sp := rfl
@[simp] theorem State.engineReset_acc (s : State) : (s.engineReset).acc = [] := rfl
@[simp] theorem State.engineReset_response (s : State) : (s.engineReset).response = s.response := rfl
@[simp] theorem State.engineReset_events (s : State) : (s.engineReset).events = s.events := rfl

/-! ### `State.engineAppend`: 40_digest_engine.md R104 -/

@[simp] theorem State.engineAppend_phase (s : State) (x : List Byte) : (s.engineAppend x).phase = s.phase := rfl
@[simp] theorem State.engineAppend_cmderr (s : State) (x : List Byte) : (s.engineAppend x).cmderr = s.cmderr := rfl
@[simp] theorem State.engineAppend_werr (s : State) (x : List Byte) : (s.engineAppend x).werr = s.werr := rfl
@[simp] theorem State.engineAppend_errcode (s : State) (x : List Byte) : (s.engineAppend x).errcode = s.errcode := rfl
@[simp] theorem State.engineAppend_ie (s : State) (x : List Byte) : (s.engineAppend x).ie = s.ie := rfl
@[simp] theorem State.engineAppend_variant (s : State) (x : List Byte) : (s.engineAppend x).variant = s.variant := rfl
@[simp] theorem State.engineAppend_rounds (s : State) (x : List Byte) : (s.engineAppend x).rounds = s.rounds := rfl
@[simp] theorem State.engineAppend_pwlen (s : State) (x : List Byte) : (s.engineAppend x).pwlen = s.pwlen := rfl
@[simp] theorem State.engineAppend_saltlen (s : State) (x : List Byte) : (s.engineAppend x).saltlen = s.saltlen := rfl
@[simp] theorem State.engineAppend_roundidx (s : State) (x : List Byte) : (s.engineAppend x).roundidx = s.roundidx := rfl
@[simp] theorem State.engineAppend_rawlen (s : State) (x : List Byte) : (s.engineAppend x).rawlen = s.rawlen := rfl
@[simp] theorem State.engineAppend_enclen (s : State) (x : List Byte) : (s.engineAppend x).enclen = s.enclen := rfl
@[simp] theorem State.engineAppend_pwSize (s : State) (x : List Byte) : (s.engineAppend x).pwSize = s.pwSize := rfl
@[simp] theorem State.engineAppend_mem (s : State) (x : List Byte) : (s.engineAppend x).mem = s.mem := rfl
@[simp] theorem State.engineAppend_db (s : State) (x : List Byte) : (s.engineAppend x).db = s.db := rfl
@[simp] theorem State.engineAppend_da (s : State) (x : List Byte) : (s.engineAppend x).da = s.da := rfl
@[simp] theorem State.engineAppend_pp (s : State) (x : List Byte) : (s.engineAppend x).pp = s.pp := rfl
@[simp] theorem State.engineAppend_sp (s : State) (x : List Byte) : (s.engineAppend x).sp = s.sp := rfl
@[simp] theorem State.engineAppend_acc (s : State) (x : List Byte) : (s.engineAppend x).acc = s.acc ++ x := rfl
@[simp] theorem State.engineAppend_response (s : State) (x : List Byte) : (s.engineAppend x).response = s.response := rfl
@[simp] theorem State.engineAppend_events (s : State) (x : List Byte) : (s.engineAppend x).events = s.events := rfl

/-! ### `State.engineFinalize`: the state after, 40_digest_engine.md R105 -/

@[simp] theorem State.engineFinalize_phase (s : State) : (s.engineFinalize.2).phase = s.phase := rfl
@[simp] theorem State.engineFinalize_cmderr (s : State) : (s.engineFinalize.2).cmderr = s.cmderr := rfl
@[simp] theorem State.engineFinalize_werr (s : State) : (s.engineFinalize.2).werr = s.werr := rfl
@[simp] theorem State.engineFinalize_errcode (s : State) : (s.engineFinalize.2).errcode = s.errcode := rfl
@[simp] theorem State.engineFinalize_ie (s : State) : (s.engineFinalize.2).ie = s.ie := rfl
@[simp] theorem State.engineFinalize_variant (s : State) : (s.engineFinalize.2).variant = s.variant := rfl
@[simp] theorem State.engineFinalize_rounds (s : State) : (s.engineFinalize.2).rounds = s.rounds := rfl
@[simp] theorem State.engineFinalize_pwlen (s : State) : (s.engineFinalize.2).pwlen = s.pwlen := rfl
@[simp] theorem State.engineFinalize_saltlen (s : State) : (s.engineFinalize.2).saltlen = s.saltlen := rfl
@[simp] theorem State.engineFinalize_roundidx (s : State) : (s.engineFinalize.2).roundidx = s.roundidx := rfl
@[simp] theorem State.engineFinalize_rawlen (s : State) : (s.engineFinalize.2).rawlen = s.rawlen := rfl
@[simp] theorem State.engineFinalize_enclen (s : State) : (s.engineFinalize.2).enclen = s.enclen := rfl
@[simp] theorem State.engineFinalize_pwSize (s : State) : (s.engineFinalize.2).pwSize = s.pwSize := rfl
@[simp] theorem State.engineFinalize_mem (s : State) : (s.engineFinalize.2).mem = s.mem := rfl
@[simp] theorem State.engineFinalize_db (s : State) : (s.engineFinalize.2).db = s.db := rfl
@[simp] theorem State.engineFinalize_da (s : State) : (s.engineFinalize.2).da = s.da := rfl
@[simp] theorem State.engineFinalize_pp (s : State) : (s.engineFinalize.2).pp = s.pp := rfl
@[simp] theorem State.engineFinalize_sp (s : State) : (s.engineFinalize.2).sp = s.sp := rfl
@[simp] theorem State.engineFinalize_acc (s : State) : (s.engineFinalize.2).acc = [] := rfl
@[simp] theorem State.engineFinalize_response (s : State) : (s.engineFinalize.2).response = s.response := rfl
@[simp] theorem State.engineFinalize_events (s : State) : (s.engineFinalize.2).events = s.events := rfl

/-! ### `State.wipeInternals`: 46_sequencer.md R236 -/

@[simp] theorem State.wipeInternals_phase (s : State) : (s.wipeInternals).phase = s.phase := rfl
@[simp] theorem State.wipeInternals_cmderr (s : State) : (s.wipeInternals).cmderr = s.cmderr := rfl
@[simp] theorem State.wipeInternals_werr (s : State) : (s.wipeInternals).werr = s.werr := rfl
@[simp] theorem State.wipeInternals_errcode (s : State) : (s.wipeInternals).errcode = s.errcode := rfl
@[simp] theorem State.wipeInternals_ie (s : State) : (s.wipeInternals).ie = s.ie := rfl
@[simp] theorem State.wipeInternals_variant (s : State) : (s.wipeInternals).variant = s.variant := rfl
@[simp] theorem State.wipeInternals_rounds (s : State) : (s.wipeInternals).rounds = s.rounds := rfl
@[simp] theorem State.wipeInternals_pwlen (s : State) : (s.wipeInternals).pwlen = s.pwlen := rfl
@[simp] theorem State.wipeInternals_saltlen (s : State) : (s.wipeInternals).saltlen = s.saltlen := rfl
@[simp] theorem State.wipeInternals_roundidx (s : State) : (s.wipeInternals).roundidx = s.roundidx := rfl
@[simp] theorem State.wipeInternals_rawlen (s : State) : (s.wipeInternals).rawlen = s.rawlen := rfl
@[simp] theorem State.wipeInternals_enclen (s : State) : (s.wipeInternals).enclen = s.enclen := rfl
@[simp] theorem State.wipeInternals_pwSize (s : State) : (s.wipeInternals).pwSize = s.pwSize := rfl
@[simp] theorem State.wipeInternals_mem (s : State) : (s.wipeInternals).mem = s.mem := rfl
@[simp] theorem State.wipeInternals_db (s : State) : (s.wipeInternals).db = [] := rfl
@[simp] theorem State.wipeInternals_da (s : State) : (s.wipeInternals).da = [] := rfl
@[simp] theorem State.wipeInternals_pp (s : State) : (s.wipeInternals).pp = [] := rfl
@[simp] theorem State.wipeInternals_sp (s : State) : (s.wipeInternals).sp = [] := rfl
@[simp] theorem State.wipeInternals_acc (s : State) : (s.wipeInternals).acc = [] := rfl
@[simp] theorem State.wipeInternals_response (s : State) : (s.wipeInternals).response = s.response := rfl
@[simp] theorem State.wipeInternals_events (s : State) : (s.wipeInternals).events = s.events := rfl

/-! ### `State.wipeOutputs`: 45_commands.md R210 -/

@[simp] theorem State.wipeOutputs_phase (s : State) : (s.wipeOutputs).phase = s.phase := rfl
@[simp] theorem State.wipeOutputs_cmderr (s : State) : (s.wipeOutputs).cmderr = s.cmderr := rfl
@[simp] theorem State.wipeOutputs_werr (s : State) : (s.wipeOutputs).werr = s.werr := rfl
@[simp] theorem State.wipeOutputs_errcode (s : State) : (s.wipeOutputs).errcode = s.errcode := rfl
@[simp] theorem State.wipeOutputs_ie (s : State) : (s.wipeOutputs).ie = s.ie := rfl
@[simp] theorem State.wipeOutputs_variant (s : State) : (s.wipeOutputs).variant = s.variant := rfl
@[simp] theorem State.wipeOutputs_rounds (s : State) : (s.wipeOutputs).rounds = s.rounds := rfl
@[simp] theorem State.wipeOutputs_pwlen (s : State) : (s.wipeOutputs).pwlen = s.pwlen := rfl
@[simp] theorem State.wipeOutputs_saltlen (s : State) : (s.wipeOutputs).saltlen = s.saltlen := rfl
@[simp] theorem State.wipeOutputs_roundidx (s : State) : (s.wipeOutputs).roundidx = 0 := rfl
@[simp] theorem State.wipeOutputs_rawlen (s : State) : (s.wipeOutputs).rawlen = 0 := rfl
@[simp] theorem State.wipeOutputs_enclen (s : State) : (s.wipeOutputs).enclen = 0 := rfl
@[simp] theorem State.wipeOutputs_pwSize (s : State) : (s.wipeOutputs).pwSize = s.pwSize := rfl
@[simp] theorem State.wipeOutputs_mem (s : State) : (s.wipeOutputs).mem = (s.mem.erase Config.rawBase Config.rawSize).erase Config.encBase Config.encSize := rfl
@[simp] theorem State.wipeOutputs_db (s : State) : (s.wipeOutputs).db = s.db := rfl
@[simp] theorem State.wipeOutputs_da (s : State) : (s.wipeOutputs).da = s.da := rfl
@[simp] theorem State.wipeOutputs_pp (s : State) : (s.wipeOutputs).pp = s.pp := rfl
@[simp] theorem State.wipeOutputs_sp (s : State) : (s.wipeOutputs).sp = s.sp := rfl
@[simp] theorem State.wipeOutputs_acc (s : State) : (s.wipeOutputs).acc = s.acc := rfl
@[simp] theorem State.wipeOutputs_response (s : State) : (s.wipeOutputs).response = s.response := rfl
@[simp] theorem State.wipeOutputs_events (s : State) : (s.wipeOutputs).events = s.events := rfl

/-! ### `State.raiseError`: 60_exceptions.md R259 -/

@[simp] theorem State.raiseError_phase (s : State) (e : ErrCode) : (s.raiseError e).phase = .error := rfl
@[simp] theorem State.raiseError_cmderr (s : State) (e : ErrCode) : (s.raiseError e).cmderr = s.cmderr := rfl
@[simp] theorem State.raiseError_werr (s : State) (e : ErrCode) : (s.raiseError e).werr = s.werr := rfl
@[simp] theorem State.raiseError_errcode (s : State) (e : ErrCode) : (s.raiseError e).errcode = e := rfl
@[simp] theorem State.raiseError_ie (s : State) (e : ErrCode) : (s.raiseError e).ie = s.ie := rfl
@[simp] theorem State.raiseError_variant (s : State) (e : ErrCode) : (s.raiseError e).variant = s.variant := rfl
@[simp] theorem State.raiseError_rounds (s : State) (e : ErrCode) : (s.raiseError e).rounds = s.rounds := rfl
@[simp] theorem State.raiseError_pwlen (s : State) (e : ErrCode) : (s.raiseError e).pwlen = s.pwlen := rfl
@[simp] theorem State.raiseError_saltlen (s : State) (e : ErrCode) : (s.raiseError e).saltlen = s.saltlen := rfl
@[simp] theorem State.raiseError_roundidx (s : State) (e : ErrCode) : (s.raiseError e).roundidx = s.roundidx := rfl
@[simp] theorem State.raiseError_rawlen (s : State) (e : ErrCode) : (s.raiseError e).rawlen = s.rawlen := rfl
@[simp] theorem State.raiseError_enclen (s : State) (e : ErrCode) : (s.raiseError e).enclen = s.enclen := rfl
@[simp] theorem State.raiseError_pwSize (s : State) (e : ErrCode) : (s.raiseError e).pwSize = s.pwSize := rfl
@[simp] theorem State.raiseError_mem (s : State) (e : ErrCode) : (s.raiseError e).mem = s.mem := rfl
@[simp] theorem State.raiseError_db (s : State) (e : ErrCode) : (s.raiseError e).db = [] := rfl
@[simp] theorem State.raiseError_da (s : State) (e : ErrCode) : (s.raiseError e).da = [] := rfl
@[simp] theorem State.raiseError_pp (s : State) (e : ErrCode) : (s.raiseError e).pp = [] := rfl
@[simp] theorem State.raiseError_sp (s : State) (e : ErrCode) : (s.raiseError e).sp = [] := rfl
@[simp] theorem State.raiseError_acc (s : State) (e : ErrCode) : (s.raiseError e).acc = [] := rfl
@[simp] theorem State.raiseError_response (s : State) (e : ErrCode) : (s.raiseError e).response = s.response := rfl
@[simp] theorem State.raiseError_events (s : State) (e : ErrCode) : (s.raiseError e).events = s.events := rfl

/-! ### `State.clearAll`: 45_commands.md R213 -/

@[simp] theorem State.clearAll_phase (s : State) : (s.clearAll).phase = .idle := rfl
@[simp] theorem State.clearAll_cmderr (s : State) : (s.clearAll).cmderr = false := rfl
@[simp] theorem State.clearAll_werr (s : State) : (s.clearAll).werr = false := rfl
@[simp] theorem State.clearAll_errcode (s : State) : (s.clearAll).errcode = .none := rfl
@[simp] theorem State.clearAll_ie (s : State) : (s.clearAll).ie = s.ie := rfl
@[simp] theorem State.clearAll_variant (s : State) : (s.clearAll).variant = 0 := rfl
@[simp] theorem State.clearAll_rounds (s : State) : (s.clearAll).rounds = BitVec.ofNat 32 Config.roundsDefault := rfl
@[simp] theorem State.clearAll_pwlen (s : State) : (s.clearAll).pwlen = 0 := rfl
@[simp] theorem State.clearAll_saltlen (s : State) : (s.clearAll).saltlen = 0 := rfl
@[simp] theorem State.clearAll_roundidx (s : State) : (s.clearAll).roundidx = 0 := rfl
@[simp] theorem State.clearAll_rawlen (s : State) : (s.clearAll).rawlen = 0 := rfl
@[simp] theorem State.clearAll_enclen (s : State) : (s.clearAll).enclen = 0 := rfl
@[simp] theorem State.clearAll_pwSize (s : State) : (s.clearAll).pwSize = s.pwSize := rfl
@[simp] theorem State.clearAll_mem (s : State) : (s.clearAll).mem = [] := rfl
@[simp] theorem State.clearAll_db (s : State) : (s.clearAll).db = [] := rfl
@[simp] theorem State.clearAll_da (s : State) : (s.clearAll).da = [] := rfl
@[simp] theorem State.clearAll_pp (s : State) : (s.clearAll).pp = [] := rfl
@[simp] theorem State.clearAll_sp (s : State) : (s.clearAll).sp = [] := rfl
@[simp] theorem State.clearAll_acc (s : State) : (s.clearAll).acc = [] := rfl
@[simp] theorem State.clearAll_response (s : State) : (s.clearAll).response = s.response := rfl
@[simp] theorem State.clearAll_events (s : State) : (s.clearAll).events = s.events := rfl

/-! ### `State.hardReset`: 70_reset_and_hazards.md R280 -/

@[simp] theorem State.hardReset_phase (s : State) : (s.hardReset).phase = .idle := rfl
@[simp] theorem State.hardReset_cmderr (s : State) : (s.hardReset).cmderr = false := rfl
@[simp] theorem State.hardReset_werr (s : State) : (s.hardReset).werr = false := rfl
@[simp] theorem State.hardReset_errcode (s : State) : (s.hardReset).errcode = .none := rfl
@[simp] theorem State.hardReset_ie (s : State) : (s.hardReset).ie = false := rfl
@[simp] theorem State.hardReset_variant (s : State) : (s.hardReset).variant = 0 := rfl
@[simp] theorem State.hardReset_rounds (s : State) : (s.hardReset).rounds = BitVec.ofNat 32 Config.roundsDefault := rfl
@[simp] theorem State.hardReset_pwlen (s : State) : (s.hardReset).pwlen = 0 := rfl
@[simp] theorem State.hardReset_saltlen (s : State) : (s.hardReset).saltlen = 0 := rfl
@[simp] theorem State.hardReset_roundidx (s : State) : (s.hardReset).roundidx = 0 := rfl
@[simp] theorem State.hardReset_rawlen (s : State) : (s.hardReset).rawlen = 0 := rfl
@[simp] theorem State.hardReset_enclen (s : State) : (s.hardReset).enclen = 0 := rfl
@[simp] theorem State.hardReset_pwSize (s : State) : (s.hardReset).pwSize = s.pwSize := rfl
@[simp] theorem State.hardReset_mem (s : State) : (s.hardReset).mem = [] := rfl
@[simp] theorem State.hardReset_db (s : State) : (s.hardReset).db = [] := rfl
@[simp] theorem State.hardReset_da (s : State) : (s.hardReset).da = [] := rfl
@[simp] theorem State.hardReset_pp (s : State) : (s.hardReset).pp = [] := rfl
@[simp] theorem State.hardReset_sp (s : State) : (s.hardReset).sp = [] := rfl
@[simp] theorem State.hardReset_acc (s : State) : (s.hardReset).acc = [] := rfl
@[simp] theorem State.hardReset_response (s : State) : (s.hardReset).response = .idle := rfl
@[simp] theorem State.hardReset_events (s : State) : (s.hardReset).events = s.events := rfl

/-! ### `State.setWord`: 45_commands.md R201 -/

@[simp] theorem State.setWord_phase (s : State) (o : Nat) (d : Word) : (s.setWord o d).phase = s.phase := rfl
@[simp] theorem State.setWord_cmderr (s : State) (o : Nat) (d : Word) : (s.setWord o d).cmderr = s.cmderr := rfl
@[simp] theorem State.setWord_werr (s : State) (o : Nat) (d : Word) : (s.setWord o d).werr = s.werr := rfl
@[simp] theorem State.setWord_errcode (s : State) (o : Nat) (d : Word) : (s.setWord o d).errcode = s.errcode := rfl
@[simp] theorem State.setWord_ie (s : State) (o : Nat) (d : Word) : (s.setWord o d).ie = s.ie := rfl
@[simp] theorem State.setWord_variant (s : State) (o : Nat) (d : Word) : (s.setWord o d).variant = s.variant := rfl
@[simp] theorem State.setWord_rounds (s : State) (o : Nat) (d : Word) : (s.setWord o d).rounds = s.rounds := rfl
@[simp] theorem State.setWord_pwlen (s : State) (o : Nat) (d : Word) : (s.setWord o d).pwlen = s.pwlen := rfl
@[simp] theorem State.setWord_saltlen (s : State) (o : Nat) (d : Word) : (s.setWord o d).saltlen = s.saltlen := rfl
@[simp] theorem State.setWord_roundidx (s : State) (o : Nat) (d : Word) : (s.setWord o d).roundidx = s.roundidx := rfl
@[simp] theorem State.setWord_rawlen (s : State) (o : Nat) (d : Word) : (s.setWord o d).rawlen = s.rawlen := rfl
@[simp] theorem State.setWord_enclen (s : State) (o : Nat) (d : Word) : (s.setWord o d).enclen = s.enclen := rfl
@[simp] theorem State.setWord_pwSize (s : State) (o : Nat) (d : Word) : (s.setWord o d).pwSize = s.pwSize := rfl
@[simp] theorem State.setWord_mem (s : State) (o : Nat) (d : Word) : (s.setWord o d).mem = s.mem.writeBytes o (wordBytes d) := rfl
@[simp] theorem State.setWord_db (s : State) (o : Nat) (d : Word) : (s.setWord o d).db = s.db := rfl
@[simp] theorem State.setWord_da (s : State) (o : Nat) (d : Word) : (s.setWord o d).da = s.da := rfl
@[simp] theorem State.setWord_pp (s : State) (o : Nat) (d : Word) : (s.setWord o d).pp = s.pp := rfl
@[simp] theorem State.setWord_sp (s : State) (o : Nat) (d : Word) : (s.setWord o d).sp = s.sp := rfl
@[simp] theorem State.setWord_acc (s : State) (o : Nat) (d : Word) : (s.setWord o d).acc = s.acc := rfl
@[simp] theorem State.setWord_response (s : State) (o : Nat) (d : Word) : (s.setWord o d).response = s.response := rfl
@[simp] theorem State.setWord_events (s : State) (o : Nat) (d : Word) : (s.setWord o d).events = s.events := rfl

/-! ### Input registers -/

@[simp] theorem State.setInput_variant (s : State) (d : Word) :
    s.setInput .variant d = { s with variant := d } := rfl
@[simp] theorem State.setInput_rounds (s : State) (d : Word) :
    s.setInput .rounds d = { s with rounds := d } := rfl
@[simp] theorem State.setInput_pwlen (s : State) (d : Word) :
    s.setInput .pwlen d = { s with pwlen := d } := rfl
@[simp] theorem State.setInput_saltlen (s : State) (d : Word) :
    s.setInput .saltlen d = { s with saltlen := d } := rfl

/-! ### Writes to inputs (45_commands.md R201, R202) -/

theorem State.writeInput_busy (s t : State) (h : s.busy = true) :
    s.writeInput t = { s with werr := true }.respond .accepted := by simp [State.writeInput, h]

theorem State.writeInput_free (s t : State) (h : s.busy = false) : s.writeInput t = t.respond .accepted := by
  simp [State.writeInput, h]

end Sys2Proof.Machine
end

