-- ==== Sys2Proof/Laws/Engine.lean ====
section
/-! SUPPORT. The Digest Engine's appends in a row (40_digest_engine.md R104). -/

namespace Sys2Proof.Machine

/-- A run of appends leaves every field but `int.ACC`, which grows by the parts in their order. -/
theorem State.foldl_engineAppend (s : State) (parts : List (List Byte)) :
    parts.foldl State.engineAppend s = { s with acc := s.acc ++ parts.flatten } := by
  induction parts generalizing s with
  | nil => simp
  | cons x parts ih => simp [ih, State.engineAppend]

end Sys2Proof.Machine
end

