-- ==== Sys2Proof/Laws/HostProgram.lean ====
section
/-! SUPPORT. Host programs: the events between two lines are steps of the machine, and a program runs line after line
(30_encoding.md R90, 20_memory.md R69). -/

namespace Sys2Proof.Machine

/-- The events before a host transaction are steps of the machine. -/
theorem State.elapse_iff_runSteps (n : Nat) (s t : State) : s.elapse n = some t ↔ runSteps n s = .next t := by
  induction n generalizing s with
  | zero => simp [State.elapse, runSteps]
  | succ n ih =>
    simp only [State.elapse, runSteps]
    cases step s <;> simp [ih]

/-- Two stretches of events in a row are one stretch. -/
theorem State.elapse_add (m n : Nat) (s : State) : s.elapse (m + n) = (s.elapse m).bind (State.elapse n) := by
  induction m generalizing s with
  | zero => simp [State.elapse]
  | succ m ih =>
    rw [Nat.succ_add]
    simp only [State.elapse]
    cases step s <;> simp [ih]

/-- A program in two parts runs the second from where the first left the schedule and the state. -/
theorem runHost_append (a b : List HostOp) (sched : Schedule) (s : State) :
    runHost (a ++ b) sched s =
      (runHost a sched s).bind fun p => (runHost b p.2.1 p.2.2).map fun q => (p.1 ++ q.1, q.2) := by
  induction a generalizing sched s with
  | nil => simp [runHost]
  | cons op a ih =>
    cases op <;> simp only [List.cons_append, runHost]
    · cases lineWrite _ _ sched s <;> simp [ih]
    · cases lineRead _ sched s <;> simp [ih, Option.map_bind, Function.comp_def, Option.bind_map]
    · cases linePoll _ _ _ sched s <;> simp [ih, Option.map_bind, Function.comp_def, Option.bind_map]

end Sys2Proof.Machine
end

