-- ==== Sys2Proof/Laws/Memory.lean ====
section
/-! SUPPORT. What the memory operations do: a read after a write, what a write leaves alone, and that every operation
keeps the canonical form. The reading laws hold of every list of cells, canonical or not. -/

namespace Sys2Proof.Machine

/-! ### Reading -/

@[simp] theorem Memory.read_nil (a : Nat) : Memory.read [] a = 0 := rfl

theorem Memory.read_cons (k : Nat) (b : Byte) (m : Memory) (a : Nat) :
    Memory.read ((k, b) :: m) a = if k = a then b else Memory.read m a := rfl

theorem Memory.read_filter (m : Memory) (p : Nat → Bool) (a : Nat) :
    Memory.read (m.filter fun c => p c.1) a = if p a then Memory.read m a else 0 := by
  induction m with
  | nil => simp
  | cons c m ih =>
    obtain ⟨k, b⟩ := c
    rw [List.filter_cons]
    split
    · next hk =>
      simp only [Memory.read_cons, ih]
      split
      · next h => subst h; simp only at hk; simp [hk]
      · rfl
    · next hk =>
      rw [ih, Memory.read_cons]
      split
      · next h =>
        have : k ≠ a := fun e => hk (e ▸ h)
        rw [if_neg this]
      · rfl

theorem Memory.read_insert (m : Memory) (a x : Nat) (b : Byte) (h : ∀ c ∈ m, c.1 ≠ a) :
    Memory.read (Memory.insert m a b) x = if a = x then b else Memory.read m x := by
  induction m with
  | nil => rfl
  | cons c m ih =>
    obtain ⟨k, d⟩ := c
    have hk : k ≠ a := h (k, d) (List.mem_cons_self ..)
    have ih := ih fun c hc => h c (List.mem_cons_of_mem _ hc)
    simp only [Memory.insert]
    split
    · simp [Memory.read_cons]
    · simp only [Memory.read_cons, ih]
      split
      · next e => subst e; simp [Ne.symm hk]
      · rfl

/-- A read after a write: the written byte at its address, every other byte as before. -/
theorem Memory.read_write (m : Memory) (a x : Nat) (b : Byte) :
    Memory.read (Memory.write m a b) x = if a = x then b else Memory.read m x := by
  have hf : ∀ c ∈ m.filter (fun c => c.1 ≠ a), c.1 ≠ a := by simp
  have hr := Memory.read_filter m (fun k => decide (k ≠ a)) x
  simp only [Memory.write]
  split
  · next hb => rw [hr]; by_cases h : a = x <;> simp [h, hb, eq_comm]
  · rw [Memory.read_insert _ _ _ _ hf, hr]
    by_cases h : a = x
    · simp [h]
    · simp [h, Ne.symm h]

@[simp] theorem Memory.read_write_same (m : Memory) (a : Nat) (b : Byte) :
    Memory.read (Memory.write m a b) a = b := by simp [Memory.read_write]

theorem Memory.read_write_other (m : Memory) (a x : Nat) (b : Byte) (h : a ≠ x) :
    Memory.read (Memory.write m a b) x = Memory.read m x := by simp [Memory.read_write, h]

/-- A read after a run of writes: the written bytes at their addresses, every other byte as before. -/
theorem Memory.read_writeBytes (m : Memory) (base : Nat) (bs : List Byte) (x : Nat) :
    Memory.read (Memory.writeBytes m base bs) x =
      if base ≤ x ∧ x < base + bs.length then bs.getD (x - base) 0 else Memory.read m x := by
  induction bs generalizing m base with
  | nil =>
    simp only [Memory.writeBytes, List.length_nil]
    split
    · omega
    · rfl
  | cons b bs ih =>
    simp only [Memory.writeBytes, ih, Memory.read_write, List.length_cons]
    by_cases h : base = x
    · subst h
      simp
    · by_cases h' : base ≤ x ∧ x < base + (bs.length + 1)
      · have h1 : base + 1 ≤ x ∧ x < base + 1 + bs.length := by omega
        have h2 : x - base = (x - (base + 1)) + 1 := by omega
        simp only [h1, h', and_self, if_true, h2, List.getD_cons_succ]
      · have h1 : ¬ (base + 1 ≤ x ∧ x < base + 1 + bs.length) := by omega
        simp only [h1, h', h, if_false]

/-- A read after an erasure: zero inside, as before outside. -/
theorem Memory.read_erase (m : Memory) (base n x : Nat) :
    Memory.read (Memory.erase m base n) x =
      if base ≤ x ∧ x < base + n then 0 else Memory.read m x := by
  have h := Memory.read_filter m (fun k => !(decide (base ≤ k) && decide (k < base + n))) x
  simp only [Memory.erase]
  rw [h]
  by_cases hx : base ≤ x ∧ x < base + n
  · simp [hx]
  · have : (!(decide (base ≤ x) && decide (x < base + n))) = true := by
      simp only [Bool.not_eq_true', Bool.and_eq_false_iff, decide_eq_false_iff_not]
      by_contra hc
      push Not at hc
      exact hx hc
    rw [this, if_neg hx, if_pos rfl]

@[simp] theorem Memory.length_bytes (m : Memory) (base n : Nat) : (m.bytes base n).length = n := by
  simp [Memory.bytes]

/-- A byte of a range of bytes. -/
theorem Memory.getD_bytes (m : Memory) (base n k : Nat) (h : k < n) :
    (m.bytes base n).getD k 0 = m.read (base + k) := by
  simp [Memory.bytes, List.getD_eq_getElem?_getD, h]

/-- Two ranges of bytes agree when every byte of them does. -/
theorem Memory.bytes_congr (m m' : Memory) (base n : Nat)
    (h : ∀ x, base ≤ x → x < base + n → m.read x = m'.read x) : m.bytes base n = m'.bytes base n := by
  refine List.map_congr_left fun k hk => h _ (by omega) ?_
  have := List.mem_range.mp hk
  omega

/-- A byte of a memory an internal register was loaded into (10_state.md R41-R44). -/
theorem Memory.read_load (m : Memory) (width : Nat) (bs : List Byte) (x : Nat) :
    Memory.read (m.load width bs) x =
      if x < min width bs.length then bs.getD x 0 else Memory.read m x := by
  simp only [Memory.load, Memory.read_writeBytes, Nat.zero_le, true_and, List.length_take, Nat.zero_add,
    Nat.sub_zero]
  split
  · next h =>
    have : x < width := by omega
    simp [List.getD_eq_getElem?_getD, this]
  · rfl

/-! ### The canonical form -/

@[simp] theorem Memory.wf_nil : Memory.wf [] = true := rfl

theorem Memory.wf_cons (k : Nat) (b : Byte) (m : Memory) :
    Memory.wf ((k, b) :: m) = true ↔ b ≠ 0 ∧ (∀ c ∈ m, k < c.1) ∧ Memory.wf m = true := by
  simp [Memory.wf, and_assoc]

theorem Memory.wf_filter (m : Memory) (p : Host.Cell → Bool) (h : Memory.wf m = true) :
    Memory.wf (m.filter p) = true := by
  induction m with
  | nil => rfl
  | cons c m ih =>
    obtain ⟨k, b⟩ := c
    obtain ⟨hb, hk, hm⟩ := (Memory.wf_cons k b m).mp h
    rw [List.filter_cons]
    split
    · exact (Memory.wf_cons _ _ _).mpr ⟨hb, fun c hc => hk c (List.mem_of_mem_filter hc), ih hm⟩
    · exact ih hm

theorem Memory.mem_insert (m : Memory) (a : Nat) (b : Byte) (c : Host.Cell) :
    c ∈ Memory.insert m a b ↔ c = (a, b) ∨ c ∈ m := by
  induction m with
  | nil => simp [Memory.insert]
  | cons d m ih =>
    obtain ⟨k, e⟩ := d
    simp only [Memory.insert]
    split
    · simp
    · simp only [List.mem_cons, ih]
      tauto

theorem Memory.wf_insert (m : Memory) (a : Nat) (b : Byte) (hb : b ≠ 0) (ha : ∀ c ∈ m, c.1 ≠ a)
    (h : Memory.wf m = true) : Memory.wf (Memory.insert m a b) = true := by
  induction m with
  | nil => simpa [Memory.insert, Memory.wf] using hb
  | cons c m ih =>
    obtain ⟨k, d⟩ := c
    obtain ⟨hd, hk, hm⟩ := (Memory.wf_cons k d m).mp h
    have hka : k ≠ a := ha (k, d) (List.mem_cons_self ..)
    simp only [Memory.insert]
    split
    · next hlt =>
      refine (Memory.wf_cons _ _ _).mpr ⟨hb, ?_, h⟩
      intro c hc
      rcases List.mem_cons.mp hc with rfl | hc
      · exact hlt
      · exact lt_trans hlt (hk c hc)
    · next hlt =>
      refine (Memory.wf_cons _ _ _).mpr ⟨hd, ?_, ih (fun c hc => ha c (List.mem_cons_of_mem _ hc)) hm⟩
      intro c hc
      rcases (Memory.mem_insert m a b c).mp hc with rfl | hc
      · show k < a
        omega
      · exact hk c hc

/-- A write keeps the canonical form. -/
theorem Memory.wf_write (m : Memory) (a : Nat) (b : Byte) (h : Memory.wf m = true) :
    Memory.wf (Memory.write m a b) = true := by
  simp only [Memory.write]
  split
  · exact Memory.wf_filter m _ h
  · next hb => exact Memory.wf_insert _ a b hb (by simp) (Memory.wf_filter m _ h)

/-- A run of writes keeps the canonical form. -/
theorem Memory.wf_writeBytes (m : Memory) (base : Nat) (bs : List Byte) (h : Memory.wf m = true) :
    Memory.wf (Memory.writeBytes m base bs) = true := by
  induction bs generalizing m base with
  | nil => exact h
  | cons b bs ih => exact ih _ _ (Memory.wf_write m base b h)

/-- An erasure keeps the canonical form. -/
theorem Memory.wf_erase (m : Memory) (base n : Nat) (h : Memory.wf m = true) :
    Memory.wf (Memory.erase m base n) = true := Memory.wf_filter m _ h

/-- Loading an internal register keeps the canonical form. -/
theorem Memory.wf_load (m : Memory) (width : Nat) (bs : List Byte) (h : Memory.wf m = true) :
    Memory.wf (m.load width bs) = true := Memory.wf_writeBytes m 0 _ h

/-- The memory after reset is canonical. -/
theorem Memory.wf_reset : Memory.wf State.reset.mem = true := rfl

/-! ### Which addresses are listed -/

theorem Memory.keys_write (m : Memory) (a : Nat) (b : Byte) (c : Host.Cell) (h : c ∈ Memory.write m a b) :
    c.1 = a ∨ c ∈ m := by
  simp only [Memory.write] at h
  split at h
  · exact .inr (List.mem_of_mem_filter h)
  · rcases (Memory.mem_insert _ a b c).mp h with rfl | h
    · exact .inl rfl
    · exact .inr (List.mem_of_mem_filter h)

/-- A run of writes lists no address but those it writes and those listed before. -/
theorem Memory.keys_writeBytes (m : Memory) (base : Nat) (bs : List Byte) (c : Host.Cell)
    (h : c ∈ Memory.writeBytes m base bs) : (base ≤ c.1 ∧ c.1 < base + bs.length) ∨ c ∈ m := by
  induction bs generalizing m base with
  | nil => exact .inr h
  | cons b bs ih =>
    simp only [Memory.writeBytes] at h
    rcases ih _ _ h with h | h
    · exact .inl ⟨by omega, by simp only [List.length_cons]; omega⟩
    · rcases Memory.keys_write m base b c h with h | h
      · exact .inl ⟨by omega, by simp only [List.length_cons]; omega⟩
      · exact .inr h

/-- An erasure lists no address of its range, and none that was not listed. -/
theorem Memory.keys_erase (m : Memory) (base n : Nat) (c : Host.Cell) :
    c ∈ Memory.erase m base n ↔ c ∈ m ∧ ¬ (base ≤ c.1 ∧ c.1 < base + n) := by
  simp only [Memory.erase, List.mem_filter, Bool.not_eq_true', Bool.and_eq_false_iff, decide_eq_false_iff_not]
  tauto

/-- An internal register holds no byte past its width. -/
theorem Memory.within_load (m : Memory) (width : Nat) (bs : List Byte) (h : m.within width = true) :
    (m.load width bs).within width = true := by
  simp only [Memory.within, List.all_eq_true, decide_eq_true_eq] at h ⊢
  intro c hc
  rcases Memory.keys_writeBytes m 0 _ c hc with hc | hc
  · simp only [List.length_take] at hc
    omega
  · exact h c hc

/-! ### Loading an internal register -/

/-- A load of no more bytes than the register's width puts them at its start. -/
theorem Memory.take_bytes_load (m : Memory) (width n : Nat) (bs : List Byte) (hn : bs.length = n) (h : n ≤ width) :
    ((m.load width bs).bytes 0 width).take n = bs := by
  subst hn
  apply List.ext_getElem?
  intro k
  by_cases hk : k < bs.length
  · have : k < width := by omega
    simp [Memory.bytes, List.getElem?_take, hk, this, Memory.load, Memory.read_writeBytes]
  · rw [List.getElem?_eq_none (by simp; omega), List.getElem?_eq_none (by omega)]

end Sys2Proof.Machine
end

