-- ==== Sys2Proof/Laws/PerInstr.lean ====
section
/-! SUPPORT. Statements made per instruction: every packet has the fixed length of its format (30_encoding.md R80, R81,
R84, R89). -/

namespace Sys2Proof.Laws

/-- The bytes of a packet of each format. -/
def packetLength : Format → Nat
  | .cmd => 4
  | .busW => 7
  | .busR => 3
  | .seq => 1

theorem length_writePacket (off : BitVec 12) (size : BitVec 8) (data : Word) :
    (writePacket off size data).length = 7 := by simp [writePacket]

theorem length_readPacket (off : BitVec 12) (size : BitVec 8) : (readPacket off size).length = 3 := by
  simp [readPacket]

/-- The instruction's packet has its format's length. -/
def EncodedLength.Statement (i : Instr) : Prop := (encode i).length = packetLength i.format

theorem EncodedLength.nop : EncodedLength.Statement .nop := length_wordBytes _
theorem EncodedLength.start : EncodedLength.Statement .start := length_wordBytes _
theorem EncodedLength.abort : EncodedLength.Statement .abort := length_wordBytes _
theorem EncodedLength.clear : EncodedLength.Statement .clear := length_wordBytes _
theorem EncodedLength.reserved (word : Word) : EncodedLength.Statement (.reserved word) := length_wordBytes _
theorem EncodedLength.busWBad (off : BitVec 12) (size : BitVec 8) (data : Word) :
    EncodedLength.Statement (.busWBad off size data) := length_writePacket _ _ _
theorem EncodedLength.busWCmd (data : Word) : EncodedLength.Statement (.busWCmd data) := length_writePacket _ _ _
theorem EncodedLength.busWInten (data : Word) : EncodedLength.Statement (.busWInten data) := length_writePacket _ _ _
theorem EncodedLength.busWInputReg (reg : InputReg) (data : Word) :
    EncodedLength.Statement (.busWInputReg reg data) := length_writePacket _ _ _
theorem EncodedLength.busWSalt (w : BitVec 2) (data : Word) : EncodedLength.Statement (.busWSalt w data) :=
  length_writePacket _ _ _
theorem EncodedLength.busWPw (w : BitVec 10) (data : Word) : EncodedLength.Statement (.busWPw w data) :=
  length_writePacket _ _ _
theorem EncodedLength.busWIgnored (off : BitVec 12) (data : Word) :
    EncodedLength.Statement (.busWIgnored off data) := length_writePacket _ _ _
theorem EncodedLength.busR (off : BitVec 12) (size : BitVec 8) : EncodedLength.Statement (.busR off size) :=
  length_readPacket _ _
theorem EncodedLength.seqDigestB : EncodedLength.Statement .seqDigestB := rfl
theorem EncodedLength.seqDigestA : EncodedLength.Statement .seqDigestA := rfl
theorem EncodedLength.seqDp : EncodedLength.Statement .seqDp := rfl
theorem EncodedLength.seqDs : EncodedLength.Statement .seqDs := rfl
theorem EncodedLength.seqRound : EncodedLength.Statement .seqRound := rfl
theorem EncodedLength.seqEncode : EncodedLength.Statement .seqEncode := rfl

end Sys2Proof.Laws
end

