-- ==== Sys2Proof/Laws/Start.lean ====
section
/-! SUPPORT. START's checks in the words of 45_commands.md R209, and what zeroing the outputs leaves in memory (R210,
R211). -/

namespace Sys2Proof.Machine

/-- Zeroing the outputs: an output byte reads 0, every other byte reads as before. -/
theorem State.read_wipeOutputs (s : State) (a : Nat) :
    s.wipeOutputs.mem.read a = if outputAddr a then 0 else s.mem.read a := by
  by_cases h : 128 ≤ a ∧ a < 280
  · have ho : outputAddr a = true := by simp [outputAddr, h]
    rw [ho, if_pos rfl]
    simp only [State.wipeOutputs, Memory.read_erase, Config.rawBase, Config.rawSize, Config.encBase, Config.encSize]
    split
    · rfl
    · rw [if_pos (by omega)]
  · have ho : outputAddr a = false := by simp [outputAddr]; omega
    simp only [State.wipeOutputs, Memory.read_erase, ho, Config.rawBase, Config.rawSize, Config.encBase,
      Config.encSize]
    rw [if_neg (by omega), if_neg (by omega)]
    rfl

theorem isSaltChar_iff (c : Byte) : isSaltChar c = true ↔ legalSaltByte c := by
  simp [isSaltChar, legalSaltByte, or_assoc]

theorem State.saltLenOK_iff (s : State) : s.saltLenOK = true ↔ s.saltLenLegal := by
  simp [State.saltLenOK, State.saltLenLegal]

theorem State.roundsOK_iff (s : State) : s.roundsOK = true ↔ s.roundsLegal := by
  simp [State.roundsOK, State.roundsLegal]

theorem State.variantOK_iff (s : State) : s.variantOK = true ↔ s.variantLegal := by
  simp only [State.variantOK, State.variantLegal, Bool.or_eq_true, decide_eq_true_eq]
  constructor
  · rintro (h | h) <;> simp [h]
  · rintro (h | h)
    · exact .inl (BitVec.eq_of_toNat_eq (by simpa using h))
    · exact .inr (BitVec.eq_of_toNat_eq (by simpa using h))

theorem State.pwOK_iff (s : State) : s.pwOK = true ↔ s.passwordFits := by
  simp [State.pwOK, State.passwordFits]

/-- A salt of at most 16 bytes has SALTLEN bytes. -/
theorem State.length_salt (s : State) (h : s.saltlen.toNat ≤ 16) : s.salt.length = s.saltlen.toNat := by
  simp [State.salt, State.saltBuffer, h]

/-- A byte of the salt is the byte of the SALT buffer at its offset. -/
theorem State.getElem?_salt (s : State) (k : Nat) (h : s.saltlen.toNat ≤ 16) (hk : k < s.saltlen.toNat) :
    s.salt[k]? = some (s.mem.read (0x040 + k)) := by
  have : k < 16 := by omega
  simp [State.salt, State.saltBuffer, Memory.bytes, hk, this]

/-- `saltCharOK` says what R209 says, once `saltLenOK` holds. -/
theorem State.saltCharOK_iff (s : State) (h : s.saltLenLegal) : s.saltCharOK = true ↔ s.saltCharsLegal := by
  simp only [State.saltCharOK, State.saltCharsLegal, List.all_eq_true, isSaltChar_iff]
  constructor
  · exact fun H k hk => H _ (List.mem_of_getElem? (s.getElem?_salt k h.2 hk))
  · intro H c hc
    obtain ⟨k, hk, rfl⟩ := List.getElem_of_mem hc
    have hk' := hk
    rw [s.length_salt h.2] at hk'
    have hg := s.getElem?_salt k h.2 hk'
    rw [List.getElem?_eq_getElem hk] at hg
    injection hg with hg
    rw [hg]
    exact H k hk'

/-- START's validation finds no error exactly on legal inputs (R209-R211). -/
theorem State.legal_iff (s : State) : s.Legal ↔ s.startError = .none := by
  have hc := s.saltCharOK_iff
  rw [← s.saltLenOK_iff] at hc
  constructor
  · rintro ⟨h1, h2, h3, h4, h5⟩
    rw [← s.saltLenOK_iff] at h1
    rw [← hc h1] at h2
    rw [← s.roundsOK_iff] at h3
    rw [← s.variantOK_iff] at h4
    rw [← s.pwOK_iff] at h5
    simp [State.startError, h1, h2, h3, h4, h5]
  · intro h
    unfold State.startError at h
    repeat' split at h
    all_goals try cases h
    next h1 h2 h3 h4 h5 =>
      simp only [Bool.not_eq_true', Bool.not_eq_false] at h1 h2 h3 h4 h5
      exact ⟨s.saltLenOK_iff.mp h1, (hc h1).mp h2, s.roundsOK_iff.mp h3, s.variantOK_iff.mp h4, s.pwOK_iff.mp h5⟩

end Sys2Proof.Machine
end

