-- ==== Sys2Proof/Laws/Step.lean ====
section
/-! SUPPORT. What one step can do, said once: which event it took (20_memory.md R69), and what a host transaction leaves
(45_commands.md R200-R214). -/

namespace Sys2Proof.Machine

/-- Outside BUSY the engine has nothing to fetch, and only there. -/
theorem State.fetchEngine_none (s : State) (h : s.fetchEngine = none) : s.busy = false := by
  unfold State.fetchEngine at h
  unfold State.busy
  cases hp : s.phase <;> rw [hp] at h <;> simp [Phase.code, decodeSeq] at h <;> rfl

/-- The engine step that is fetched is the one of the phase. -/
theorem State.fetchEngine_some (s : State) (i : Instr) (h : s.fetchEngine = some i) :
    (s.phase = .digestB ∧ i = .seqDigestB) ∨ (s.phase = .digestA ∧ i = .seqDigestA) ∨
    (s.phase = .dp ∧ i = .seqDp) ∨ (s.phase = .ds ∧ i = .seqDs) ∨
    (s.phase = .round ∧ i = .seqRound) ∨ (s.phase = .encode ∧ i = .seqEncode) := by
  unfold State.fetchEngine at h
  cases hp : s.phase <;> rw [hp] at h <;> simp [Phase.code, decodeSeq] at h ⊢ <;> exact h.symm

/-- A step that answers `t` took a reset, a host transaction that decodes, or the engine's move, which did nothing
outside BUSY. -/
theorem step_cases (s t : State) (h : step s = .next t) :
    (∃ rest, s.events = .reset :: rest ∧ t = { State.resetAt s.pwSize with events := rest }) ∨
    (∃ packet rest i, s.events = .host packet :: rest ∧ decodeHost s.pwSize packet = .ok i ∧
      s.hostNext = some i ∧ i.format ≠ .seq ∧ exec i { s with events := rest } = .next t) ∨
    ∃ rest, (s.events = .engine :: rest ∨ (s.events = [] ∧ rest = [])) ∧
      ((s.busy = false ∧ t = { s with events := rest }) ∨
        ∃ i, s.fetchEngine = some i ∧ exec i { s with events := rest } = .next t) := by
  have engine : ∀ rest, engineMove { s with events := rest } = .next t →
      (s.busy = false ∧ t = { s with events := rest }) ∨
        ∃ i, s.fetchEngine = some i ∧ exec i { s with events := rest } = .next t := by
    intro rest h
    unfold engineMove at h
    rw [show ({ s with events := rest } : State).fetchEngine = s.fetchEngine from rfl] at h
    split at h
    · next i hi => exact .inr ⟨i, hi, h⟩
    · next hi => injection h with h; exact .inl ⟨s.fetchEngine_none hi, h.symm⟩
  unfold step nextEvent at h
  split at h
  · next he => exact .inr (.inr ⟨[], .inr ⟨he, rfl⟩, engine [] (by rw [← he]; exact h)⟩)
  · next rest he => exact .inr (.inr ⟨rest, .inl he, engine rest h⟩)
  · next packet rest he =>
    unfold hostMove at h
    cases hd : decodeHost s.pwSize packet with
    | error e => simp only [hd] at h; cases h
    | ok i =>
      simp only [hd] at h
      refine .inr (.inl ⟨packet, rest, i, he, hd, by simp [State.hostNext, he, hd], ?_, h⟩)
      unfold decodeHost at hd
      split at hd
      · split at hd
        · cases hd
        · next hf => injection hd with hd; exact hd ▸ hf
      · cases hd
  · next rest he => injection h with h; exact .inl ⟨rest, he, h.symm⟩

/-- The ten ways a host transaction `i` takes `s` to `t`. -/
inductive HostCase (s : State) (i : Instr) (t : State) : Prop
  /-- nothing but the response: NOP, ABORT outside BUSY, a read, a bad or an ignored write -/
  | same (r : BusResponse) (h : t = { s with response := r })
  /-- CMDERR alone (60_exceptions.md R253) -/
  | cmderr (hi : i.isReserved ∨ (s.busy = true ∧ (i.isStart ∨ i.isClear)))
      (h : t = { s with cmderr := true, response := .accepted })
  /-- START on legal inputs (R211) -/
  | start (hi : i.isStart) (hb : s.busy = false) (hl : s.Legal)
      (h : t = { s.wipeOutputs with errcode := .none, phase := .digestB, response := .accepted })
  /-- START on inputs that fail a check (R210) -/
  | startBad (hi : i.isStart) (hb : s.busy = false) (hl : s.startError ≠ .none)
      (h : t = { s.wipeOutputs.raiseError s.startError with response := .accepted })
  /-- ABORT while BUSY (R212) -/
  | abort (hi : i.isAbort) (hb : s.busy = true) (h : t = { s.raiseError .aborted with response := .accepted })
  /-- CLEAR outside BUSY (R213) -/
  | clear (hi : i.isClear) (hb : s.busy = false)
      (h : t = { State.resetAt s.pwSize with ie := s.ie, response := .accepted, events := s.events })
  /-- an input write while BUSY (R202) -/
  | werr (hi : i.isInputWrite) (hb : s.busy = true) (h : t = { s with werr := true, response := .accepted })
  /-- a write to INTEN (R204) -/
  | inten (data : Word) (hi : i = .busWInten data) (h : t = { s with ie := data.getLsbD 0, response := .accepted })
  /-- an input register written (R201) -/
  | reg (hi : i.isInputWrite) (hb : s.busy = false) (v r p l : Word)
      (h : t = { s with variant := v, rounds := r, pwlen := p, saltlen := l, response := .accepted })
  /-- a word of SALT or PW written (R201) -/
  | mem (hi : i.isInputWrite) (hb : s.busy = false) (o : Nat) (data : Word)
      (ho : (0x40 ≤ o ∧ o + 4 ≤ 0x50) ∨ (0x200 ≤ o ∧ o + 4 ≤ 0x200 + s.pwSize.bytes))
      (h : t = { s with mem := s.mem.writeBytes o (wordBytes data), response := .accepted })

theorem hostCase_start (s t : State) (i : Instr) (hi : i.isStart) (h : execStart s = .next t) : HostCase s i t := by
  unfold execStart at h
  split at h
  · next hb => injection h with h; exact .cmderr (.inr ⟨hb, .inl hi⟩) h.symm
  · next hb =>
    have hb : s.busy = false := by simpa using hb
    split at h
    · next he => injection h with h; exact .start hi hb (s.legal_iff.mpr he) h.symm
    · next he => injection h with h; exact .startBad hi hb he h.symm

theorem hostCase_abort (s t : State) (i : Instr) (hi : i.isAbort) (h : execAbort s = .next t) : HostCase s i t := by
  unfold execAbort at h
  split at h
  · next hb => injection h with h; exact .abort hi hb h.symm
  · injection h with h; exact .same _ h.symm

theorem hostCase_clear (s t : State) (i : Instr) (hi : i.isClear) (h : execClear s = .next t) : HostCase s i t := by
  unfold execClear at h
  split at h
  · next hb => injection h with h; exact .cmderr (.inr ⟨hb, .inr hi⟩) h.symm
  · next hb => injection h with h; exact .clear hi (by simpa using hb) h.symm

theorem hostCase_input (s t u : State) (i : Instr) (hi : i.isInputWrite)
    (h : (.next (s.writeInput u) : Host.Outcome State Fault Refusal) = .next t)
    (stored : s.busy = false → t = { u with response := .accepted } → HostCase s i t) : HostCase s i t := by
  injection h with h
  unfold State.writeInput at h
  split at h
  · next hb => exact .werr hi hb h.symm
  · next hb => exact stored (by simpa using hb) h.symm

/-- Every host transaction that answers is one of the ten. -/
theorem host_cases (s t : State) (i : Instr) (hf : i.format ≠ .seq) (h : exec i s = .next t) : HostCase s i t := by
  cases i with
  | nop => injection h with h; exact .same _ h.symm
  | start => exact hostCase_start s t _ (.inl rfl) h
  | abort => exact hostCase_abort s t _ (.inl rfl) h
  | clear => exact hostCase_clear s t _ (.inl rfl) h
  | reserved word => injection h with h; exact .cmderr (.inl (.inl ⟨word, rfl⟩)) h.symm
  | busWBad => injection h with h; exact .same _ h.symm
  | busWCmd data =>
    simp only [exec, execBusWCmd] at h
    split at h
    · injection h with h; exact .same _ h.symm
    split at h
    · next e => exact hostCase_start s t _ (.inr (by rw [e])) h
    split at h
    · next e => exact hostCase_abort s t _ (.inr (by rw [e])) h
    split at h
    · next e => exact hostCase_clear s t _ (.inr (by rw [e])) h
    · next h0 h1 h2 h3 =>
      injection h with h
      refine .cmderr (.inl (.inr ⟨data, ?_, rfl⟩)) h.symm
      by_contra hc
      have : data.toNat = 0 ∨ data.toNat = 1 ∨ data.toNat = 2 ∨ data.toNat = 3 := by omega
      rcases this with e | e | e | e
      · exact h0 (BitVec.eq_of_toNat_eq e)
      · exact h1 (BitVec.eq_of_toNat_eq e)
      · exact h2 (BitVec.eq_of_toNat_eq e)
      · exact h3 (BitVec.eq_of_toNat_eq e)
  | busWInten data => injection h with h; exact .inten data rfl h.symm
  | busWInputReg reg data =>
    refine hostCase_input s t _ _ (.inl ⟨reg, data, rfl⟩) h fun hb h => ?_
    cases reg <;> exact .reg (.inl ⟨_, data, rfl⟩) hb _ _ _ _ h
  | busWSalt w data =>
    refine hostCase_input s t _ _ (.inr (.inl ⟨w, data, rfl⟩)) h fun hb h => ?_
    have := w.isLt
    refine .mem (.inr (.inl ⟨w, data, rfl⟩)) hb (saltOffset w) data (.inl ?_) h
    simp only [saltOffset, Config.saltBase]
    omega
  | busWPw w data =>
    simp only [exec, execBusWPw] at h
    split at h
    · next hw =>
      refine hostCase_input s t _ _ (.inr (.inr ⟨w, data, rfl⟩)) h fun hb h => ?_
      refine .mem (.inr (.inr ⟨w, data, rfl⟩)) hb (pwOffset w) data (.inr ?_) h
      simp only [pwOffset, Config.pwBase, PwSize.bytes]
      omega
    · injection h with h; exact .same _ h.symm
  | busWIgnored => injection h with h; exact .same _ h.symm
  | busR off size =>
    simp only [exec, execBusR] at h
    split at h
    · injection h with h; exact .same _ h.symm
    · injection h with h; exact .same _ h.symm
  | seqDigestB => exact absurd rfl hf
  | seqDigestA => exact absurd rfl hf
  | seqDp => exact absurd rfl hf
  | seqDs => exact absurd rfl hf
  | seqRound => exact absurd rfl hf
  | seqEncode => exact absurd rfl hf

end Sys2Proof.Machine
end

