-- ==== Sys2Proof/Tests/Slice0.lean ====
section
/-! SUPPORT. The model's own tests. Expected values are the spec's: 95_test_vectors.md (T-…, W1, W3), the encodings of
30_encoding.md, or hand calculation from the rule named. A theorem `test_meets_<statement>` shows operands and states
that meet that statement's hypotheses, every clause at a boundary. -/

namespace Sys2Proof.Tests

open Sys2Proof Sys2Proof.Machine

/-! ### Helpers -/

/-- What a step or an instruction answered is a next state with the property. -/
def after (o : Host.Outcome State Fault Refusal) (p : State → Bool) : Bool :=
  match o with
  | .next t => p t
  | .fault _ => false
  | .refused _ => false

/-- A state that holds the inputs of T-F5: variant 5, password "a", salt "s", 1000 rounds. -/
def small (ph : Phase) : State :=
  { State.reset with
    phase := ph, variant := 5, rounds := 1000, pwlen := 1, saltlen := 1, mem := [(0x040, 0x73), (0x200, 0x61)] }

/-- A state that holds the inputs of W1: password "Hello world!", salt "saltstring". -/
def hello (ph : Phase) : State :=
  { State.reset with
    phase := ph, variant := 5, pwlen := 12, saltlen := 10
    mem :=
      [(0x040, 0x73), (0x041, 0x61), (0x042, 0x6c), (0x043, 0x74), (0x044, 0x73), (0x045, 0x74), (0x046, 0x72),
       (0x047, 0x69), (0x048, 0x6e), (0x049, 0x67),
       (0x200, 0x48), (0x201, 0x65), (0x202, 0x6c), (0x203, 0x6c), (0x204, 0x6f), (0x205, 0x20), (0x206, 0x77),
       (0x207, 0x6f), (0x208, 0x72), (0x209, 0x6c), (0x20a, 0x64), (0x20b, 0x21)] }

/-- The bytes of a hexadecimal number of `n` bytes, as the spec prints them. -/
def hex (n v : Nat) : List Byte := beBytes n v

/-- T-C1, T-C2, T-C7: Digest B, Digest A and the final digest of the W1 run. -/
def digB : List Byte := hex 32 0x4b30312f1a4b690a2fe19a8cf201ca81226420648b7b5cc36a322253bd37bfc1
def digA : List Byte := hex 32 0xf17b69f5a5093176ead0016799c4c5eb0d7d06a4d34f6300ddf6618eb4a8e5d5
def digCore : List Byte := hex 32 0xece9807faae7f7203489a324e617df4c8b649a234792134358d845655d4d107a

/-- T-C3 and T-C4: P' and S' of the W1 run. -/
def seqP : List Byte := hex 12 0x6fde0beb3de1991ed42f1c54
def seqS : List Byte := hex 10 0xee84a1246baee5addaf3

/-- W1's digest field, `5B8vYYiY.CVt1RlTTf8KbXBH3hsxY/GNooZaBBGWEc5`. -/
def fieldW1 : List Byte :=
  hex 43 0x35423876595969592e43567431526c545466384b6258424833687378592f474e6f6f5a6142424757456335

/-! ### Well-formedness: each check refuses an ill-formed term -/

theorem test_wf_refuses_reserved_of_a_defined_word : (Instr.reserved 0x00000003).wf 63 = false := by decide
theorem test_wf_refuses_bad_write_that_is_good : (Instr.busWBad 0x014 4 0).wf 63 = false := by decide
theorem test_wf_refuses_pw_word_past_the_buffer : (Instr.busWPw 64 0).wf 63 = false := by decide
theorem test_wf_refuses_ignored_misaligned : (Instr.busWIgnored 0x005 0).wf 63 = false := by decide
theorem test_wf_refuses_ignored_at_cmd : (Instr.busWIgnored 0x000 0).wf 63 = false := by decide
theorem test_wf_refuses_ignored_at_inten : (Instr.busWIgnored 0x00C 0).wf 63 = false := by decide
theorem test_wf_refuses_ignored_at_variant : (Instr.busWIgnored 0x010 0).wf 63 = false := by decide
theorem test_wf_refuses_ignored_at_rounds : (Instr.busWIgnored 0x014 0).wf 63 = false := by decide
theorem test_wf_refuses_ignored_at_pwlen : (Instr.busWIgnored 0x018 0).wf 63 = false := by decide
theorem test_wf_refuses_ignored_at_saltlen : (Instr.busWIgnored 0x01C 0).wf 63 = false := by decide
theorem test_wf_refuses_ignored_at_salt : (Instr.busWIgnored 0x04C 0).wf 63 = false := by decide
theorem test_wf_refuses_ignored_at_pw : (Instr.busWIgnored 0x2FC 0).wf 63 = false := by decide

/-! ### Decoding: one word written out from the spec for every constructor

CMD words: 30_encoding.md R82. Writes: OFF from 10_state.md R23, SIZE 4, DATA little-endian (R80, 20_memory.md R62).
Phase codes: R84. -/

theorem test_decode_nop : decode 63 [0x00, 0x00, 0x00, 0x00] = .ok .nop := by decide
theorem test_decode_start : decode 63 [0x01, 0x00, 0x00, 0x00] = .ok .start := by decide
theorem test_decode_abort : decode 63 [0x02, 0x00, 0x00, 0x00] = .ok .abort := by decide
theorem test_decode_clear : decode 63 [0x03, 0x00, 0x00, 0x00] = .ok .clear := by decide
theorem test_decode_reserved_low : decode 63 [0x04, 0x00, 0x00, 0x00] = .ok (.reserved 0x00000004) := by decide
/-- The low byte alone does not make a START (R83: the upper bits are not ignored). -/
theorem test_decode_reserved_high : decode 63 [0x01, 0x00, 0x00, 0x80] = .ok (.reserved 0x80000001) := by decide
theorem test_decode_bad_size : decode 63 [0x14, 0x00, 0x02, 0xE8, 0x03, 0x00, 0x00] = .ok (.busWBad 0x014 2 1000) := by
  decide
theorem test_decode_bad_alignment : decode 63 [0x06, 0x00, 0x04, 0, 0, 0, 0] = .ok (.busWBad 0x006 4 0) := by decide
theorem test_decode_cmd : decode 63 [0x00, 0x00, 0x04, 0x01, 0, 0, 0] = .ok (.busWCmd 1) := by decide
theorem test_decode_inten : decode 63 [0x0C, 0x00, 0x04, 0x01, 0, 0, 0] = .ok (.busWInten 1) := by decide
theorem test_decode_variant : decode 63 [0x10, 0x00, 0x04, 0x05, 0, 0, 0] = .ok (.busWInputReg .variant 5) := by
  decide
theorem test_decode_rounds :
    decode 63 [0x14, 0x00, 0x04, 0xFF, 0xC9, 0x9A, 0x3B] = .ok (.busWInputReg .rounds 0x3B9AC9FF) := by decide
theorem test_decode_pwlen : decode 63 [0x18, 0x00, 0x04, 0x01, 0x01, 0, 0] = .ok (.busWInputReg .pwlen 257) := by
  decide
theorem test_decode_saltlen : decode 63 [0x1C, 0x00, 0x04, 0x11, 0, 0, 0] = .ok (.busWInputReg .saltlen 17) := by
  decide
theorem test_decode_salt : decode 63 [0x4C, 0x00, 0x04, 0x61, 0x62, 0x24, 0x64] = .ok (.busWSalt 3 0x64246261) := by
  decide
theorem test_decode_pw : decode 63 [0xFC, 0x02, 0x04, 0x72, 0x6C, 0x64, 0x21] = .ok (.busWPw 63 0x21646C72) := by
  decide
theorem test_decode_ignored_status : decode 63 [0x04, 0x00, 0x04, 0xFF, 0, 0, 0] = .ok (.busWIgnored 0x004 0xFF) := by
  decide
theorem test_decode_ignored_above_pw : decode 63 [0x00, 0x03, 0x04, 0, 0, 0, 0] = .ok (.busWIgnored 0x300 0) := by
  decide
theorem test_decode_read : decode 63 [0xC0, 0x00, 0x04] = .ok (.busR 0x0C0 4) := by decide
theorem test_decode_seq_digest_b : decode 63 [0x01] = .ok .seqDigestB := by decide
theorem test_decode_seq_digest_a : decode 63 [0x02] = .ok .seqDigestA := by decide
theorem test_decode_seq_dp : decode 63 [0x03] = .ok .seqDp := by decide
theorem test_decode_seq_ds : decode 63 [0x04] = .ok .seqDs := by decide
theorem test_decode_seq_round : decode 63 [0x05] = .ok .seqRound := by decide
theorem test_decode_seq_encode : decode 63 [0x06] = .ok .seqEncode := by decide

theorem test_decode_rejects_length : decode 63 [0x00, 0x00] = .error (.badLength 2) := by decide
theorem test_decode_rejects_offset : decode 63 [0x00, 0x10, 0x04] = .error (.offsetOutsideWindow 0x1000) := by decide
theorem test_decode_rejects_phase_byte : decode 63 [0x15] = .error (.badPhaseByte 0x15) := by decide
theorem test_decode_rejects_idle_phase : decode 63 [0x00] = .error (.noEngineStep 0) := by decide
theorem test_decode_rejects_done_phase : decode 63 [0x07] = .error (.noEngineStep 7) := by decide
theorem test_decode_rejects_unused_phase : decode 63 [0x0F] = .error (.noEngineStep 15) := by decide
theorem test_host_cannot_issue_a_phase : decodeHost 63 [0x05] = .error .notHostIssued := by decide

/-! ### A table word placed where the step fetches -/

theorem test_fetch_cmd_word :
    after (step (State.reset.withFetchWord 32 0x00000011)) (fun t => t.cmderr && t.status = 0x00000008) = true := by
  decide
theorem test_fetch_bus_row :
    after (step (State.reset.withFetchWord 16 0x0014)) (fun t => t.rounds = 0 && t.response = .accepted) = true := by
  decide
theorem test_fetch_phase :
    after (step ((small .idle).withFetchWord 8 0x03)) (fun t => t.phase = .ds) = true := by decide +kernel

/-! ### One step of each instruction -/

/-- T-K10 -/
theorem test_nop : exec .nop (small .round) = .next { small .round with response := .accepted } := rfl
/-- T-K3 -/
theorem test_start_begins :
    after (exec .start (small .idle)) (fun t => t.status = 0x00000101 && t.errcodeWord = 0 && t.roundidx = 0) = true := by
  decide
/-- T-K11: the salt is checked before the rounds. -/
theorem test_start_checks_salt_first :
    after (exec .start { small .idle with saltlen := 17, rounds := 999 })
      (fun t => t.status = 0x00000804 && t.errcodeWord = 1) = true := by decide
/-- T-K7 -/
theorem test_abort :
    after (exec .abort { small .round with roundidx := 1234, ie := true, da := [(0, 0xf1)] })
      (fun t => t.status = 0x00001804 && t.errcodeWord = 5 && t.roundidx = 1234 && t.da = []) = true := by decide
/-- T-K8 -/
theorem test_abort_in_done : after (exec .abort (small .done)) (fun t => t.status = 0x00000702) = true := by decide
/-- T-K19 -/
theorem test_clear :
    after (exec .clear { small .done with ie := true })
      (fun t => t.status = 0 && t.intenWord = 1 && t.rounds = 5000 && t.variant = 0 && t.readOffset 0x040 = 0) = true := by
  decide
/-- T-K6 -/
theorem test_clear_while_busy :
    exec .clear (small .digestB) = .next { small .digestB with cmderr := true, response := .accepted } := rfl
/-- T-K9 -/
theorem test_reserved :
    exec (.reserved 0x11) (small .done) = .next { small .done with cmderr := true, response := .accepted } := rfl
/-- T-K2, for a write -/
theorem test_bad_write : exec (.busWBad 0x006 4 0) (small .idle) = .next { small .idle with response := .busError } := rfl
/-- T-K4 -/
theorem test_cmd_start_while_busy : after (exec (.busWCmd 1) (small .digestB)) (fun t => t.status = 0x00000109) = true := by
  decide
/-- T-K20 -/
theorem test_inten :
    after (exec (.busWInten 0x3) (small .done)) (fun t => t.intenWord = 1 && t.status = 0x00001702) = true := by decide
/-- T-K5 -/
theorem test_input_dropped_while_busy :
    after (exec (.busWInputReg .rounds 5000) (small .digestB)) (fun t => t.rounds = 1000 && t.status = 0x00000111) =
      true := by decide
theorem test_input_stored :
    after (exec (.busWInputReg .pwlen 0xFFFFFFFF) (small .done)) (fun t => t.readOffset 0x018 = 0xFFFFFFFF) = true := by
  decide
/-- T-K23, at the last word of the buffer -/
theorem test_salt_write :
    after (exec (.busWSalt 3 0x746c6173) (small .idle))
      (fun t => t.readOffset 0x04C = 0x746c6173 && t.mem.read 0x04F = 0x74 && t.mem.read 0x050 = 0) = true := by decide
/-- The last word of PW: byte 255 is data bits [31:24]. -/
theorem test_pw_write :
    after (exec (.busWPw 63 0x21646C72) (small .idle))
      (fun t => t.mem.read 0x2FF = 0x21 && t.mem.read 0x2FC = 0x72 && t.readOffset 0x2FC = 0) = true := by decide
/-- T-K21 -/
theorem test_ignored_write :
    exec (.busWIgnored 0x024 64) (small .done) = .next { small .done with response := .accepted } := rfl
/-- T-K1 -/
theorem test_read_pwmax : after (exec (.busR 0x02C 4) State.reset) (fun t => t.response = .data 256) = true := by decide
/-- T-K22 -/
theorem test_read_pw_is_zero : after (exec (.busR 0x200 4) (small .idle)) (fun t => t.response = .data 0) = true := by
  decide
/-- T-S2 and T-C1 -/
theorem test_seq_digest_b :
    after (exec .seqDigestB (hello .digestB)) (fun t => t.status = 0x00000201 && t.digestBReg = digB) = true := by
  decide +kernel
/-- T-C2, a message of three blocks -/
theorem test_seq_digest_a :
    after (exec .seqDigestA { hello .digestA with db := (Memory.load [] 64 digB) })
      (fun t => t.phase = .dp && t.digestAReg = digA) = true := by decide +kernel
/-- T-C3 -/
theorem test_seq_dp :
    after (exec .seqDp (hello .dp)) (fun t => t.phase = .ds && t.ppReg = seqP) = true := by decide +kernel
/-- T-C10: with `A[0]` = 0x29 the salt is repeated 57 times, and S' is `454b52f2e36e3ad0bfba`. -/
theorem test_seq_ds :
    after (exec .seqDs { hello .ds with pwlen := 0, da := [(0, 0x29)] })
      (fun t => t.phase = .round && t.spReg = hex 10 0x454b52f2e36e3ad0bfba) = true := by decide +kernel
/-- T-C5 and T-S4 -/
theorem test_seq_round :
    after
      (exec .seqRound
        { hello .round with
          da := Memory.load [] 64 digA, pp := Memory.load [] 256 seqP, sp := Memory.load [] 16 seqS })
      (fun t => t.phase = .round && t.roundidx = 1 &&
        t.digestAReg = hex 32 0x28159e644a7f685d01952d905e53bc92e0a2a9c271894ceb59de684bc1604941) = true := by
  decide +kernel
/-- The last round leaves ROUND (T-S5); the message of an odd index not divisible by 3 or 7. -/
theorem test_seq_round_last :
    after (exec .seqRound { small .round with roundidx := 999 }) (fun t => t.phase = .encode && t.roundidx = 1000) =
      true := by decide +kernel
/-- T-S6 with T-C7 and W1 -/
theorem test_seq_encode :
    after (exec .seqEncode { hello .encode with roundidx := 5000, da := Memory.load [] 64 digCore })
      (fun t => t.status = 0x00000702 && t.rawlen = 32 && t.enclen = 43 && t.rawBuffer.take 32 = digCore &&
        t.encBuffer = fieldW1 ++ List.replicate 45 0 && t.da = []) = true := by decide +kernel

/-! ### The pure functions, on the spec's vectors -/

/-- T-E1 -/
theorem test_sha256_abc :
    sha256 [0x61, 0x62, 0x63] = hex 32 0xba7816bf8f01cfea414140de5dae2223b00361a396177a9cb410ff61f20015ad := by
  decide +kernel
/-- T-E6: the padding needs a second block. -/
theorem test_sha256_two_blocks :
    sha256 (List.replicate 56 0x61) = hex 32 0xb35439a4ac6f0948b6d6f9e3c6af0f5f590ce20f1bde7090ef7970686ec6738a := by
  decide +kernel
/-- T-E2 -/
theorem test_sha512_abc :
    sha512 [0x61, 0x62, 0x63] =
      hex 64 0xddaf35a193617abacc417349ae20413112e6fa4e89a97ea20a9eeee64b55d39a2192992a274fc1a836ba3c23a3feebbd454d4423643ce80e2a9ac94fa54ca49f := by
  decide +kernel
/-- T-B1, T-B9 and T-B11 -/
theorem test_byte_sequences :
    expandToLength [0x0a, 0x0b, 0x0c] 7 = [0x0a, 0x0b, 0x0c, 0x0a, 0x0b, 0x0c, 0x0a] ∧
    altSeq 2 digB [1, 2] = [1, 2] ++ digB ∧ altSeq 12 [3] [4] = [4, 4, 3, 3] := by decide +kernel
/-- T-N1, T-N3 and T-N4: `16E.`, `zzD` and `z1`. -/
theorem test_b64 :
    b64 1 2 3 4 = [0x31, 0x36, 0x45, 0x2e] ∧ b64 0 0xff 0xff 3 = [0x7a, 0x7a, 0x44] ∧
      b64 0 0 0xff 2 = [0x7a, 0x31] := by decide
/-- T-N8: `eI/./gW3L6.9hUl.2sG4OIk9kgV/5215RUUAnsF08En5UgEBq201BQX6Xs.CtEm1EcH7a2lCwQW2Ho18dEVDz.` -/
theorem test_encode_512 :
    encodeDigest 6 ((List.range 64).map (BitVec.ofNat 8)) =
      hex 86 0x65492f2e2f6757334c362e3968556c2e327347344f496b396b67562f35323135525555416e73463038456e3555674542713230314251583658732e4374456d314563483761326c4377515732486f3138644556447a2e := by
  decide +kernel
/-- T-N12, T-N14 and T-N17 -/
theorem test_decode_digest :
    decodeDigest 5 fieldW1 = some digCore ∧ decodeDigest 5 (fieldW1.take 42 ++ [0x4c]) = some digCore ∧
      decodeDigest 5 (fieldW1.take 42) = none := by decide +kernel
/-- T-H1 and T-H4 -/
theorem test_codec_w1 :
    formatHash ⟨5, 5000, hex 10 0x73616c74737472696e67, fieldW1⟩ =
      hex 14 0x24352473616c74737472696e6724 ++ fieldW1 ∧
    parseHash (hex 14 0x24352473616c74737472696e6724 ++ fieldW1) =
      .ok ⟨5, 5000, hex 10 0x73616c74737472696e67, fieldW1⟩ := by decide +kernel
/-- T-H6: leading zeros of the rounds are accepted; T-H13 and T-H17: the leftmost error. -/
theorem test_codec_rounds :
    parseRounds (roundsPrefix ++ [0x30, 0x31, 0x30, 0x30, 0x30, 0x24, 0x73, 0x24]) = .ok (1000, [0x73, 0x24]) ∧
    parseRounds (roundsPrefix ++ [0x39, 0x39, 0x39, 0x24]) = .error .invalidRounds ∧
    parseSalt [0x24] = .error .invalidSalt := by decide +kernel

/-! ### Every statement's hypotheses are met -/

/-- The inputs of `small` are legal, in every phase and at every ROUNDIDX. -/
theorem small_legal (ph : Phase) (n : Word) : { small ph with roundidx := n }.Legal where
  saltLen := show 1 ≤ (1 : Word).toNat ∧ (1 : Word).toNat ≤ 16 by decide
  saltChars := by
    show ∀ k, k < (1 : Word).toNat → legalSaltByte (Memory.read [(0x040, 0x73), (0x200, 0x61)] (0x040 + k))
    unfold legalSaltByte
    decide
  rounds := show 1000 ≤ (1000 : Word).toNat ∧ (1000 : Word).toNat ≤ 999999999 by decide
  variant := show (5 : Word).toNat = 5 ∨ (5 : Word).toNat = 6 by decide
  password := show (1 : Word).toNat ≤ (63 : PwSize).bytes by decide

/-- Every input at its greatest legal value: 16 salt bytes, 999999999 rounds, SHA-512, a password of PW_MAX bytes. -/
def largest : State :=
  { State.reset with
    variant := 6, rounds := 999999999, pwlen := 256, saltlen := 16
    mem := (List.range 16).map fun k => (0x040 + k, 0x7A) }

theorem largest_legal : largest.Legal where
  saltLen := by unfold State.saltLenLegal; decide
  saltChars := by unfold State.saltCharsLegal legalSaltByte; decide
  rounds := by unfold State.roundsLegal; decide
  variant := by unfold State.variantLegal; decide
  password := by unfold State.passwordFits; decide

/-- A state that reads zero outside the two bytes of `small` reads zero in its outputs. -/
theorem small_outputs (a : Nat) (h : outputAddr a = true) : Memory.read [(0x040, 0x73), (0x200, 0x61)] a = 0 := by
  simp only [outputAddr, Bool.and_eq_true, decide_eq_true_eq] at h
  simp only [Memory.read]
  rw [if_neg (by omega), if_neg (by omega)]

/-- The invariant holds in ROUND before the last round. -/
theorem small_round_inv : { small .round with roundidx := 999 }.Inv where
  memOK := by constructor <;> decide
  phaseOK :=
    { acc_empty := rfl
      internals_zero := by decide
      outputs_zero := fun _ => ⟨small_outputs, rfl, rfl⟩
      before_rounds := by decide
      round_index := by decide
      encode_index := by decide
      inputs_legal := fun _ => small_legal .round 999 }

/-- The invariant holds in ENCODE. -/
theorem small_encode_inv : { small .encode with roundidx := 1000 }.Inv where
  memOK := by constructor <;> decide
  phaseOK :=
    { acc_empty := rfl
      internals_zero := by decide
      outputs_zero := fun _ => ⟨small_outputs, rfl, rfl⟩
      before_rounds := by decide
      round_index := by decide
      encode_index := by decide
      inputs_legal := fun _ => small_legal .encode 1000 }

/-- A DONE state whose digest is 32 zero bytes: ENC is 43 times `.` (T-N5). -/
def doneZeros : State :=
  { State.reset with phase := .done, rawlen := 32, enclen := 43, mem := (List.range 43).map fun k => (0x0C0 + k, 0x2e) }

theorem doneZeros_inv : doneZeros.Inv where
  memOK := by constructor <;> decide
  phaseOK :=
    { acc_empty := rfl
      internals_zero := by decide
      outputs_zero := fun h => absurd rfl h
      before_rounds := by decide
      round_index := by decide
      encode_index := by decide
      inputs_legal := by intro h; cases h }

theorem doneZeros_agree : doneZeros.OutputsAgree := fun _ => .inl (by decide)

theorem test_meets_reset_event :
    { small .round with events := [.reset, .engine] }.events = .reset :: [.engine] := rfl

theorem test_meets_decode_inverts_encode :
    (Instr.reserved 4).wf 63 = true ∧ (Instr.busWPw 63 0).wf 63 = true ∧ (Instr.busWIgnored 0x300 0).wf 63 = true ∧
      (Instr.busWPw 895 0).wf 895 = true ∧ (Instr.busWBad 0xFFF 4 0).wf 63 = true := by decide

theorem test_meets_encode_inverts_decode : decode 0 [0x04, 0x02, 0x04, 0, 0, 0, 0] = .ok (.busWIgnored 0x204 0) := by
  decide

theorem test_meets_step_runs :
    decode 63 [0x00, 0x00, 0x04, 0x01, 0, 0, 0] = .ok (.busWCmd 1) ∧ (Instr.busWCmd 1).format ≠ .seq ∧
    decode 63 [BitVec.setWidth 8 (small .encode).phase.code] = .ok .seqEncode := by decide

theorem test_meets_busy_phase :
    (small .digestB).busy = true ∧ (small .digestA).busy = true ∧ (small .dp).busy = true ∧
      (small .ds).busy = true ∧ (small .round).busy = true ∧ (small .encode).busy = true := by decide

theorem test_meets_reserved_word : 3 < (0x00000004 : Word).toNat ∧ 3 < (0xFFFFFFFF : Word).toNat := by decide

/-- One state per check of START, each failing that check alone or first (W3, T-K11 to T-K17). -/
theorem test_meets_start_fails :
    (¬ { small .idle with saltlen := 0 }.saltLenLegal ∧ ¬ { small .error with saltlen := 17 }.saltLenLegal) ∧
    ({ small .idle with mem := [(0x040, 0x24)] }.saltLenLegal ∧
      ¬ { small .idle with mem := [(0x040, 0x24)] }.saltCharsLegal) ∧
    ({ small .done with rounds := 999 }.saltCharsLegal ∧ ¬ { small .done with rounds := 999 }.roundsLegal ∧
      ¬ { small .done with rounds := 1000000000 }.roundsLegal) ∧
    ({ small .idle with variant := 7 }.roundsLegal ∧ ¬ { small .idle with variant := 7 }.variantLegal) ∧
    ({ small .idle with pwlen := 257 }.variantLegal ∧ ¬ { small .idle with pwlen := 257 }.passwordFits) := by
  unfold State.saltLenLegal State.saltCharsLegal State.roundsLegal State.variantLegal State.passwordFits legalSaltByte
  decide

theorem test_meets_start_fails_illegal :
    ¬ { small .error with saltlen := 17 }.Legal ∧ { small .error with saltlen := 17 }.busy = false := by
  refine ⟨fun h => ?_, rfl⟩
  have := h.saltLen.2
  revert this
  decide

theorem test_meets_start_begins :
    (small .done).busy = false ∧ (small .done).Legal ∧ largest.busy = false ∧ largest.Legal :=
  ⟨rfl, small_legal .done 0, rfl, largest_legal⟩

theorem test_meets_bad_access :
    (0x006 : BitVec 12).toNat % 4 ≠ 0 ∧ (3 : BitVec 8).toNat ≠ 4 ∧ (5 : BitVec 8).toNat ≠ 4 := by decide

theorem test_meets_inten : (small .done).phase = .done ∧ (0x3 : Word).getLsbD 0 = true := by decide

theorem test_meets_input_write :
    (small .done).busy = false ∧ (small .encode).busy = true ∧
      4 * (63 : BitVec 10).toNat < (small .done).pwSize.bytes := by decide

theorem test_meets_ignored_write :
    (∀ o ∈ [0x004, 0x008, 0x020, 0x03C, 0x050, 0x1FC, 0x300, 0xFFC],
      (BitVec.ofNat 12 o).toNat % 4 = 0 ∧
      ((BitVec.ofNat 12 o).toNat = 0x004 ∨ (BitVec.ofNat 12 o).toNat = 0x008 ∨
        (0x020 ≤ (BitVec.ofNat 12 o).toNat ∧ (BitVec.ofNat 12 o).toNat < 0x040) ∨
        (0x050 ≤ (BitVec.ofNat 12 o).toNat ∧ (BitVec.ofNat 12 o).toNat < 0x200) ∨
        0x200 + (63 : PwSize).bytes ≤ (BitVec.ofNat 12 o).toNat)) ∧
    (small .idle).pwSize.bytes ≤ 4 * (64 : BitVec 10).toNat := by decide

/-- The clauses on an offset are met at both ends of each range, and no offset is under two of them. -/
theorem test_meets_read :
    ∀ o ∈ [0x000, 0x004, 0x008, 0x00C, 0x010, 0x014, 0x018, 0x01C, 0x020, 0x024, 0x028, 0x02C, 0x030, 0x03C, 0x040,
      0x04C, 0x050, 0x07C, 0x080, 0x0BC, 0x0C0, 0x114, 0x118, 0xFFC], (BitVec.ofNat 12 o).toNat % 4 = 0 := by decide

theorem test_meets_status : (small .idle).phase = .idle ∧ (small .error).phase ≠ .idle := by decide

theorem test_meets_interrupt :
    { small .round with events := [.reset] }.resetNext ∧
      { small .done with ie := true }.phase = .done ∧ { small .done with ie := true }.ie = true := ⟨⟨[], rfl⟩, rfl, rfl⟩

theorem test_meets_seq_dp : { small .dp with pwlen := 256 }.passwordFits := by unfold State.passwordFits; decide

theorem test_meets_seq_ds : { small .ds with saltlen := 16 }.saltlen.toNat ≤ 16 := by decide

theorem test_meets_seq_round :
    { small .round with roundidx := 998 }.roundidx.toNat + 1 ≠ (small .round).rounds.toNat ∧
      { small .round with roundidx := 999 }.roundidx.toNat + 1 = (small .round).rounds.toNat := by decide

theorem test_meets_seq_encode :
    31 < digestLen (small .encode).variant ∧ 42 < encodedLen (small .encode).variant := by decide

theorem test_meets_expand : 0 < [(0x0a : Byte)].length ∧ 0 < 1 := by decide

theorem test_meets_round_shapes :
    (0 % 2 = 0 ∧ 0 % 3 = 0 ∧ 0 % 7 = 0) ∧ (6 % 2 = 0 ∧ 6 % 3 = 0 ∧ 6 % 7 ≠ 0) ∧ (14 % 2 = 0 ∧ 14 % 3 ≠ 0 ∧ 14 % 7 = 0) ∧
    (2 % 2 = 0 ∧ 2 % 3 ≠ 0 ∧ 2 % 7 ≠ 0) ∧ (21 % 2 = 1 ∧ 21 % 3 = 0 ∧ 21 % 7 = 0) ∧
    (3 % 2 = 1 ∧ 3 % 3 = 0 ∧ 3 % 7 ≠ 0) ∧ (7 % 2 = 1 ∧ 7 % 3 ≠ 0 ∧ 7 % 7 = 0) ∧
    (1 % 2 = 1 ∧ 1 % 3 ≠ 0 ∧ 1 % 7 ≠ 0) := by decide

/-- A canonical field and the non-canonical one of T-N14, for SHA-256; T-N10 and T-N15 for SHA-512. -/
theorem test_meets_encoder_laws :
    digCore.length = 32 ∧ (List.replicate 64 (0xff : Byte)).length = 64 ∧
    decodeDigest 5 fieldW1 = some digCore ∧ symbolIndex (fieldW1.getD 42 0) = some 7 ∧
    decodeDigest 5 (fieldW1.take 42 ++ [0x4c]) = some digCore ∧ symbolIndex 0x4c = some 23 ∧
    decodeDigest 6 (List.replicate 85 0x7a ++ [0x31]) = some (List.replicate 64 0xff) ∧ symbolIndex 0x31 = some 3 ∧
    decodeDigest 6 (List.replicate 86 0x7a) = some (List.replicate 64 0xff) ∧ symbolIndex 0x7a = some 63 := by
  decide +kernel

/-- The greatest rounds and the shortest salt (T-H3's shape), and the longest salt with the omitted rounds. -/
theorem test_meets_parse_format :
    parseHash (formatHash ⟨5, 999999999, [0x2e], fieldW1⟩) = .ok ⟨5, 999999999, [0x2e], fieldW1⟩ ∧
    parseHash (formatHash ⟨5, 5000, List.replicate 16 0x7a, fieldW1⟩) = .ok ⟨5, 5000, List.replicate 16 0x7a, fieldW1⟩ ∧
    decodeDigest 5 fieldW1 = some digCore := by decide +kernel

theorem test_meets_parse_format_salt :
    (∀ c ∈ List.replicate 16 (0x7a : Byte), legalSaltByte c) ∧ legalSaltByte 0x2e := by
  unfold legalSaltByte
  decide

/-- A refused packet: the second alternative of the statement about stops is met too. -/
theorem test_meets_undecodable :
    step { small .round with events := [.host [0x05]] } = .refused (.undecodable .notHostIssued) := rfl

theorem test_meets_invariant_step :
    { small .round with roundidx := 999 }.Inv ∧ ∃ t, step { small .round with roundidx := 999 } = .next t :=
  ⟨small_round_inv, _, rfl⟩

theorem test_meets_outputs_step :
    doneZeros.Inv ∧ doneZeros.OutputsAgree ∧ ∃ t, step doneZeros = .next t :=
  ⟨doneZeros_inv, doneZeros_agree, _, rfl⟩

theorem test_meets_quiescent :
    doneZeros.busy = false ∧
    after (step { doneZeros with events := [.host (writePacket 0x000 4 3)] }) (fun t => t.phase = .idle) = true := by
  decide

theorem test_meets_engine_idle :
    doneZeros.busy = false ∧ doneZeros.events = [] ∧ { doneZeros with events := [.engine] }.events = [.engine] :=
  ⟨rfl, rfl, rfl⟩

theorem test_meets_frozen :
    (small .encode).busy = true ∧ ¬ (small .encode).resetNext ∧ ∃ t, step (small .encode) = .next t := by
  refine ⟨rfl, fun h => ?_, _, rfl⟩
  obtain ⟨_, h⟩ := h
  cases h

/-- ERRCODE changes by a failing START, by ABORT, by CLEAR and by reset. -/
theorem test_meets_errcode :
    after (step { small .idle with rounds := 999, events := [.host (writePacket 0x000 4 1)] })
      (fun t => t.errcode = .invalidRounds) = true ∧
    after (step { small .round with events := [.host [0x02, 0, 0, 0]] }) (fun t => t.errcode = .aborted) = true ∧
    after (step { small .error with errcode := .aborted, events := [.host [0x03, 0, 0, 0]] })
      (fun t => t.errcode = .none) = true ∧
    after (step { small .error with errcode := .aborted, events := [.reset] }) (fun t => t.errcode = .none) = true := by
  decide

theorem test_meets_sticky :
    after (step { small .error with cmderr := true, werr := true, events := [.host [0x03, 0, 0, 0]] })
      (fun t => !t.cmderr && !t.werr) = true ∧
    after (step { small .round with events := [.host [0x01, 0, 0, 0]] }) (fun t => t.cmderr) = true ∧
    after (step { small .round with events := [.host (writePacket 0x014 4 0)] }) (fun t => t.werr) = true := by
  decide

theorem test_meets_inten_writer :
    after (step { small .round with events := [.host (writePacket 0x00C 4 1)] }) (fun t => t.ie) = true := by decide

theorem test_meets_pwmax : ∃ t, step { small .round with events := [.reset] } = .next t := ⟨_, rfl⟩

theorem test_meets_outputs_stay :
    doneZeros.phase = .done ∧
    (∀ e ∈ { doneZeros with events := [.host (writePacket 0x000 4 2), .engine] }.events,
      e ≠ .reset ∧ ∀ packet i, e = .host packet → decodeHost 63 packet = .ok i → ¬ i.isStart ∧ ¬ i.isClear) ∧
    after (runSteps 3 { doneZeros with events := [.host (writePacket 0x000 4 2), .engine] })
      (fun t => t.phase = .done) = true := by
  refine ⟨rfl, ?_, by decide⟩
  intro e he
  simp only [List.mem_cons, List.not_mem_nil, or_false] at he
  rcases he with rfl | rfl
  · refine ⟨by decide, fun packet i hp hd => ?_⟩
    cases hp
    have h : decodeHost 63 (writePacket 0x000 4 2) = .ok (.busWCmd 2) := by decide
    rw [h] at hd
    cases hd
    exact ⟨by unfold Instr.isStart; decide, by unfold Instr.isClear; decide⟩
  · exact ⟨by decide, fun packet i hp => by cases hp⟩

/-- Two states that differ in the password and in every internal register. -/
theorem test_meets_secrets :
    sameVisible (small .round)
      { small .round with
        mem := [(0x040, 0x73), (0x200, 0x62)], db := [(0, 1)], da := [(63, 1)], pp := [(255, 1)], sp := [(15, 1)],
        acc := [1] } where
  fields := rfl
  mem := by
    intro a h
    show Memory.read [(0x040, 0x73), (0x200, 0x61)] a = Memory.read [(0x040, 0x73), (0x200, 0x62)] a
    simp only [Memory.read]
    rw [if_neg (show ¬ 0x200 = a by omega), if_neg (show ¬ 0x200 = a by omega)]

theorem test_meets_abort_race :
    { small .encode with roundidx := 1000 }.Inv ∧ { small .encode with roundidx := 1000 }.phase = .encode :=
  ⟨small_encode_inv, rfl⟩

theorem test_meets_whole_run :
    (small .idle).busy = false ∧ (small .idle).Legal ∧ (small .idle).events = [] :=
  ⟨rfl, small_legal .idle 0, rfl⟩

theorem test_meets_run_ends :
    { small .round with roundidx := 999 }.Inv ∧ { small .round with roundidx := 999 }.busy = true ∧
      { small .round with roundidx := 999 }.events = [] := ⟨small_round_inv, rfl, rfl⟩

/-! ### Host programs (R90), with a reset between their lines or not (R69, R280) -/

theorem test_host_program_without_interleaving :
    (runHost [.w 0x014 1000, .r 0x014] [0, 0] { State.reset with events := [.reset] }).map (·.1) = some [1000] := by
  decide

theorem test_host_program_reset_between_lines :
    (runHost [.w 0x014 1000, .r 0x014] [0, 1] { State.reset with events := [.reset] }).map (·.1) = some [5000] := by
  decide

end Sys2Proof.Tests
end

section
/-! SUPPORT. The statements about the block's state (10_state.md): the invariant of reachable states, the agreement of
RAW and ENC, who writes ERRCODE and INTEN, and what a host can see. -/

namespace Sys2Proof.Machine

/-! ### Memory as byte sequences -/

@[simp] theorem Memory.bytes_nil (base n : Nat) : Memory.bytes [] base n = List.replicate n 0 := by
  simp [Memory.bytes, List.map_const']

theorem Memory.getElem?_bytes (m : Memory) (base n k : Nat) :
    (m.bytes base n)[k]? = if k < n then some (m.read (base + k)) else none := by
  by_cases h : k < n <;> simp [Memory.bytes, h]

/-- Two memories that read alike over a word's four bytes hold the same word there. -/
theorem Memory.word_congr (m m' : Memory) (o : Nat) (h : ∀ a, o ≤ a → a < o + 4 → m.read a = m'.read a) :
    m.word o = m'.word o := congrArg bytesWord (Memory.bytes_congr m m' o 4 h)

/-- A range that starts with what was just written there and is zero past it. -/
theorem Memory.bytes_writeBytes (m : Memory) (base n : Nat) (bs : List Byte) (hn : bs.length ≤ n)
    (hz : ∀ a, base + bs.length ≤ a → a < base + n → m.read a = 0) :
    (m.writeBytes base bs).bytes base n = bs ++ List.replicate (n - bs.length) 0 := by
  apply List.ext_getElem?
  intro k
  rw [Memory.getElem?_bytes, Memory.read_writeBytes, List.getElem?_append, List.getElem?_replicate]
  by_cases hk : k < bs.length
  · have hkn : k < n := by omega
    simp [hk, hkn]
  · by_cases hkn : k < n
    · have hsub : k - bs.length < n - bs.length := by omega
      simp [hk, hkn, hsub, hz (base + k) (by omega) (by omega)]
    · have hsub : ¬ k - bs.length < n - bs.length := by omega
      simp [hk, hkn, hsub]

/-- A run of writes leaves a range it does not meet. -/
theorem Memory.bytes_writeBytes_of_disjoint (m : Memory) (base n o : Nat) (bs : List Byte)
    (h : o + bs.length ≤ base ∨ base + n ≤ o) :
    (m.writeBytes o bs).bytes base n = m.bytes base n := by
  refine Memory.bytes_congr _ _ base n fun a ha hb => ?_
  rw [Memory.read_writeBytes, if_neg (by omega)]

/-! ### The output bytes (10_state.md R37, R38) -/

theorem outputAddr_iff (a : Nat) : outputAddr a = true ↔ 0x080 ≤ a ∧ a < 0x118 := by
  simp [outputAddr]

theorem bufferAddr_of_outputAddr (pw : PwSize) (a : Nat) (h : outputAddr a = true) : bufferAddr pw a = true := by
  rw [outputAddr_iff] at h
  simp only [bufferAddr, Bool.or_eq_true, Bool.and_eq_true, decide_eq_true_eq]
  omega

/-- A word written to SALT or PW leaves every output byte. -/
theorem Memory.read_writeBytes_of_output (m : Memory) (o : Nat) (data : Word) (a : Nat)
    (ho : o + 4 ≤ 0x080 ∨ 0x118 ≤ o) (ha : outputAddr a = true) :
    (m.writeBytes o (wordBytes data)).read a = m.read a := by
  rw [outputAddr_iff] at ha
  rw [Memory.read_writeBytes, length_wordBytes, if_neg (by omega)]

theorem State.rawBuffer_congr {s t : State} (h : ∀ a, outputAddr a = true → t.mem.read a = s.mem.read a) :
    t.rawBuffer = s.rawBuffer :=
  Memory.bytes_congr _ _ 0x080 64 fun a hl hu => h a ((outputAddr_iff a).mpr (by omega))

theorem State.encBuffer_congr {s t : State} (h : ∀ a, outputAddr a = true → t.mem.read a = s.mem.read a) :
    t.encBuffer = s.encBuffer :=
  Memory.bytes_congr _ _ 0x0C0 88 fun a hl hu => h a ((outputAddr_iff a).mpr (by omega))

theorem State.read_wipeOutputs_of_output (s : State) (a : Nat) (h : outputAddr a = true) :
    s.wipeOutputs.mem.read a = 0 := by
  rw [s.read_wipeOutputs, h, if_pos rfl]

/-! ### The lengths of a variant (00_scope.md R2) -/

theorem digestLen_le (v : Word) : digestLen v ≤ Config.digestRegSize := by
  have := (Config.otherDigestLen v).isLt
  simp only [digestLen, Config.digestRegSize]
  split_ifs <;> omega

theorem encodedLen_le (v : Word) : encodedLen v ≤ Config.encSize := by
  have := (Config.otherEncodedLen v).isLt
  simp only [encodedLen, Config.encSize]
  split_ifs <;> omega

@[simp] theorem State.length_digestAReg (s : State) : s.digestAReg.length = digestLen s.variant := by
  simp [State.digestAReg, State.len, digestLen_le]

@[simp] theorem GroupRow.length_encode (d : List Byte) (r : GroupRow) : (r.encode d).length = r.n := by
  simp [GroupRow.encode, b64]

/-- An encoding has its variant's length, whatever the digest (43_encoder.md R154). -/
@[simp] theorem length_encodeDigest (v : Word) (d : List Byte) : (encodeDigest v d).length = encodedLen v := by
  have hle := encodedLen_le v
  simp only [encodeDigest]
  split_ifs with h5 h6
  · simp [encodedLen, h5, table256]
  · simp [encodedLen, h6, table512]
  · simpa using hle

/-! ### The engine's steps as updates of the state (46_sequencer.md R231-R236) -/

/-- However a message is split into appends, the digest is that of the whole and the accumulator ends empty (R106). -/
theorem State.hashParts_eq (s : State) (parts : List (List Byte)) :
    s.hashParts parts = (digest s.variant parts.flatten, { s with acc := [] }) := by
  simp [State.hashParts, State.foldl_engineAppend, State.engineReset, State.engineFinalize]

/-- The six ways the engine takes `s` to `t`. The bytes an internal register is loaded with are left open: no
invariant depends on them. -/
inductive EngineCase (s t : State) : Prop
  /-- SEQ_DIGEST_B (R231) -/
  | digestB (hp : s.phase = .digestB) (bs : List Byte)
      (h : t = { s with db := s.db.load Config.digestRegSize bs, acc := [], phase := .digestA })
  /-- SEQ_DIGEST_A (R232) -/
  | digestA (hp : s.phase = .digestA) (bs : List Byte)
      (h : t = { s with da := s.da.load Config.digestRegSize bs, acc := [], phase := .dp })
  /-- SEQ_DP (R233) -/
  | dp (hp : s.phase = .dp) (bs : List Byte)
      (h : t = { s with pp := s.pp.load s.pwSize.bytes bs, acc := [], phase := .ds })
  /-- SEQ_DS (R234) -/
  | ds (hp : s.phase = .ds) (bs : List Byte)
      (h : t = { s with sp := s.sp.load Config.spSize bs, acc := [], phase := .round })
  /-- SEQ_ROUND (R235) -/
  | round (hp : s.phase = .round) (bs : List Byte)
      (h : t = { s with
        da := s.da.load Config.digestRegSize bs, acc := []
        roundidx := BitVec.ofNat 32 (s.roundidx.toNat + 1)
        phase := if s.roundidx.toNat + 1 = s.rounds.toNat then .encode else .round })
  /-- SEQ_ENCODE (R236) -/
  | encode (hp : s.phase = .encode)
      (h : t = { s.wipeInternals with
        mem := (s.mem.writeBytes Config.rawBase s.digestAReg).writeBytes Config.encBase
          (encodeDigest s.variant s.digestAReg)
        rawlen := BitVec.ofNat 32 (digestLen s.variant)
        enclen := BitVec.ofNat 32 (encodedLen s.variant)
        phase := .done })

/-- The engine step that is fetched is one of the six, in its phase. -/
theorem engine_cases (s t : State) (i : Instr) (hi : s.fetchEngine = some i) (h : exec i s = .next t) :
    EngineCase s t := by
  rcases s.fetchEngine_some i hi with ⟨hp, rfl⟩ | ⟨hp, rfl⟩ | ⟨hp, rfl⟩ | ⟨hp, rfl⟩ | ⟨hp, rfl⟩ | ⟨hp, rfl⟩
  · simp only [exec, execSeqDigestB, State.hashParts_eq, Host.Outcome.next.injEq] at h
    exact .digestB hp _ h.symm
  · simp only [exec, execSeqDigestA, State.hashParts_eq, Host.Outcome.next.injEq] at h
    exact .digestA hp _ h.symm
  · simp only [exec, execSeqDp, State.hashParts_eq, Host.Outcome.next.injEq] at h
    exact .dp hp _ h.symm
  · simp only [exec, execSeqDs, State.hashParts_eq, Host.Outcome.next.injEq] at h
    exact .ds hp _ h.symm
  · simp only [exec, execSeqRound, State.hashParts_eq, Host.Outcome.next.injEq] at h
    exact .round hp _ h.symm
  · simp only [exec, execSeqEncode, Host.Outcome.next.injEq] at h
    exact .encode hp h.symm

theorem EngineCase.busy {s t : State} (h : EngineCase s t) : s.busy = true := by
  cases h <;> simp [State.busy, Phase.busy, *]

/-- What no engine step changes: the flags, ERRCODE, INTEN, the inputs, PWMAX and the model's own two fields. -/
theorem EngineCase.frame {s t : State} (h : EngineCase s t) :
    t = { s with
      phase := t.phase, roundidx := t.roundidx, rawlen := t.rawlen, enclen := t.enclen, mem := t.mem
      db := t.db, da := t.da, pp := t.pp, sp := t.sp, acc := t.acc } := by
  cases h <;> subst t <;> rfl

/-! ### Invariants of a step -/

/-- A property that holds after reset, that no pending event matters to, and that every host transaction and every
engine step keeps, is kept by every step of the machine. -/
theorem step_keeps {P : State → Prop}
    (events : ∀ s ev, P s → P { s with events := ev })
    (reset : ∀ s ev, P s → P { State.resetAt s.pwSize with events := ev })
    (host : ∀ s t i, P s → HostCase s i t → P t)
    (engine : ∀ s t, P s → EngineCase s t → P t)
    {s t : State} (h : P s) (hstep : step s = .next t) : P t := by
  rcases step_cases s t hstep with ⟨rest, -, rfl⟩ | ⟨packet, rest, i, -, -, -, hf, he⟩ |
    ⟨rest, -, ⟨-, rfl⟩ | ⟨i, hi, he⟩⟩
  · exact reset s rest h
  · exact host _ t i (events s rest h) (host_cases _ t i hf he)
  · exact events s rest h
  · exact engine _ t (events s rest h) (engine_cases _ t i hi he)

/-- A field that no engine step writes is changed by reset and by host transactions alone. -/
theorem step_changes_cases {α : Type} (f : State → α) (events : ∀ s ev, f { s with events := ev } = f s)
    (engine : ∀ s t, EngineCase s t → f t = f s) {s t : State} (hstep : step s = .next t) (hne : f t ≠ f s) :
    (∃ rest, s.events = .reset :: rest ∧ t = { State.resetAt s.pwSize with events := rest }) ∨
    ∃ rest i, s.hostNext = some i ∧ HostCase { s with events := rest } i t := by
  rcases step_cases s t hstep with ⟨rest, hev, ht⟩ | ⟨packet, rest, i, -, -, hnext, hf, he⟩ |
    ⟨rest, -, ⟨-, rfl⟩ | ⟨i, hi, he⟩⟩
  · exact .inl ⟨rest, hev, ht⟩
  · exact .inr ⟨rest, i, hnext, host_cases _ t i hf he⟩
  · exact absurd (events s rest) hne
  · exact absurd ((engine _ t (engine_cases { s with events := rest } t i hi he)).trans (events s rest)) hne

/-! ### Canonical memories (10_state.md R36-R44) -/

namespace State.MemOK

variable {s : State}

theorem reset (pw : PwSize) (ev : List Event) : { State.resetAt pw with events := ev }.MemOK where
  mem_wf := rfl
  db_wf := rfl
  da_wf := rfl
  pp_wf := rfl
  sp_wf := rfl
  mem_in := fun _ hc => absurd hc List.not_mem_nil
  db_in := rfl
  da_in := rfl
  pp_in := rfl
  sp_in := rfl

theorem wipeInternals (h : s.MemOK) : s.wipeInternals.MemOK :=
  { h with
    db_wf := rfl, da_wf := rfl, pp_wf := rfl, sp_wf := rfl
    db_in := rfl, da_in := rfl, pp_in := rfl, sp_in := rfl }

theorem wipeOutputs (h : s.MemOK) : s.wipeOutputs.MemOK :=
  { h with
    mem_wf := Memory.wf_erase _ _ _ (Memory.wf_erase _ _ _ h.mem_wf)
    mem_in := fun c hc => by
      obtain ⟨hc, -⟩ := (Memory.keys_erase _ _ _ c).mp hc
      obtain ⟨hc, -⟩ := (Memory.keys_erase _ _ _ c).mp hc
      exact h.mem_in c hc }

/-- Bytes written inside the buffers keep the window's memory in form. -/
theorem writeBytes (h : s.MemOK) (o : Nat) (bs : List Byte)
    (ho : ∀ a, o ≤ a → a < o + bs.length → bufferAddr s.pwSize a = true) :
    { s with mem := s.mem.writeBytes o bs }.MemOK :=
  { h with
    mem_wf := Memory.wf_writeBytes _ _ _ h.mem_wf
    mem_in := fun c hc => (Memory.keys_writeBytes _ _ _ c hc).elim (fun ⟨hl, hu⟩ => ho c.1 hl hu) (h.mem_in c) }

end State.MemOK

/-! ### The phase invariants (10_state.md R50) -/

/-- Zeroing the outputs leaves the inputs, and so their legality. -/
theorem State.Legal.wipeOutputs {s : State} (h : s.Legal) : s.wipeOutputs.Legal :=
  { h with
    saltChars := fun k hk => by
      have hk16 : k < 16 := Nat.lt_of_lt_of_le hk h.saltLen.2
      have ho : outputAddr (0x040 + k) = false := by simp [outputAddr]; omega
      rw [s.read_wipeOutputs, ho]
      exact h.saltChars k hk }

namespace State.PhaseOK

variable {s : State}

/-- Outside BUSY only the zero internals and, but for DONE, the zero outputs are asked. -/
theorem of_not_busy (hb : s.busy = false) (hacc : s.acc = [])
    (hint : s.db = [] ∧ s.da = [] ∧ s.pp = [] ∧ s.sp = [])
    (hout : s.phase ≠ .done → (∀ a, outputAddr a = true → s.mem.read a = 0) ∧ s.rawlen = 0 ∧ s.enclen = 0) :
    s.PhaseOK where
  acc_empty := hacc
  internals_zero := fun _ => hint
  outputs_zero := hout
  before_rounds := by rintro (hp | hp | hp | hp) <;> simp [State.busy, Phase.busy, hp] at hb
  round_index := fun hp => by simp [State.busy, Phase.busy, hp] at hb
  encode_index := fun hp => by simp [State.busy, Phase.busy, hp] at hb
  inputs_legal := fun h => by simp [hb] at h

theorem reset (pw : PwSize) (ev : List Event) : { State.resetAt pw with events := ev }.PhaseOK :=
  of_not_busy rfl rfl ⟨rfl, rfl, rfl, rfl⟩ fun _ => ⟨fun _ _ => rfl, rfl, rfl⟩

theorem ne_done_of_busy (hb : s.busy = true) : s.phase ≠ .done := fun hp => by
  simp [State.busy, Phase.busy, hp] at hb

/-- From one BUSY phase to another: the inputs and the zero outputs stay, the internal registers are free, and ROUNDIDX
must be what R32 and R50 ask of the new phase. -/
theorem advance (h : s.PhaseOK) (hb : s.busy = true) (db da pp sp : Memory) (n : Word) (ph : Phase)
    (hph : ph.busy = true)
    (hbefore : ph = .digestB ∨ ph = .digestA ∨ ph = .dp ∨ ph = .ds → n = 0)
    (hround : ph = .round → n.toNat < s.rounds.toNat)
    (hencode : ph = .encode → n = s.rounds) :
    { s with db := db, da := da, pp := pp, sp := sp, acc := [], roundidx := n, phase := ph }.PhaseOK where
  acc_empty := rfl
  internals_zero := fun hb' => absurd (hph.symm.trans hb') (by decide)
  outputs_zero := fun _ => h.outputs_zero (ne_done_of_busy hb)
  before_rounds := hbefore
  round_index := hround
  encode_index := hencode
  inputs_legal := fun _ => { h.inputs_legal hb with }

end State.PhaseOK

/-! ### The invariant of reachable states -/

namespace State.Inv

variable {s t : State}

theorem reset (pw : PwSize) (ev : List Event) : { State.resetAt pw with events := ev }.Inv :=
  ⟨.reset pw ev, .reset pw ev⟩

/-- The invariant speaks of no sticky flag, of no INTEN, and of neither of the model's own two fields. -/
theorem setFlags (h : s.Inv) (c w e : Bool) (r : BusResponse) (ev : List Event) :
    { s with cmderr := c, werr := w, ie := e, response := r, events := ev }.Inv where
  memOK := { h.memOK with }
  phaseOK := { h.phaseOK with inputs_legal := fun hb => { h.phaseOK.inputs_legal hb with } }

/-- Every host transaction keeps the invariant. -/
theorem host {i : Instr} (h : s.Inv) (hc : HostCase s i t) : t.Inv := by
  obtain ⟨hm, hp⟩ := h
  cases hc with
  | same r h => exact h ▸ setFlags ⟨hm, hp⟩ _ _ _ r _
  | cmderr hi h => exact h ▸ setFlags ⟨hm, hp⟩ true _ _ .accepted _
  | werr hi hb h => exact h ▸ setFlags ⟨hm, hp⟩ _ true _ .accepted _
  | inten data hi h => exact h ▸ setFlags ⟨hm, hp⟩ _ _ (data.getLsbD 0) .accepted _
  | start hi hb hl h =>
    subst h
    exact {
      memOK := { hm.wipeOutputs with }
      phaseOK := {
        acc_empty := hp.acc_empty
        internals_zero := nofun
        outputs_zero := fun _ => ⟨s.read_wipeOutputs_of_output, rfl, rfl⟩
        before_rounds := fun _ => rfl
        round_index := nofun
        encode_index := nofun
        inputs_legal := fun _ => { hl.wipeOutputs with } } }
  | startBad hi hb hl h =>
    subst h
    exact ⟨{ hm.wipeOutputs.wipeInternals with }, .of_not_busy rfl rfl ⟨rfl, rfl, rfl, rfl⟩ fun _ =>
      ⟨s.read_wipeOutputs_of_output, rfl, rfl⟩⟩
  | abort hi hb h =>
    subst h
    exact ⟨{ hm.wipeInternals with }, .of_not_busy rfl rfl ⟨rfl, rfl, rfl, rfl⟩ fun _ =>
      hp.outputs_zero (PhaseOK.ne_done_of_busy hb)⟩
  | clear hi hb h =>
    subst h
    exact ⟨{ MemOK.reset s.pwSize s.events with }, { PhaseOK.reset s.pwSize s.events with inputs_legal := nofun }⟩
  | reg hi hb v r p l h =>
    subst h
    exact ⟨{ hm with }, .of_not_busy hb hp.acc_empty (hp.internals_zero hb) hp.outputs_zero⟩
  | mem hi hb o data ho h =>
    subst h
    refine ⟨{ hm.writeBytes o (wordBytes data) fun a hl hu => ?_ with }, .of_not_busy hb hp.acc_empty
      (hp.internals_zero hb) fun hd => ⟨fun a ha => ?_, (hp.outputs_zero hd).2⟩⟩
    · simp only [length_wordBytes] at hu
      simp only [bufferAddr, Bool.or_eq_true, Bool.and_eq_true, decide_eq_true_eq]
      omega
    · exact (Memory.read_writeBytes_of_output _ o data a (by omega) ha).trans ((hp.outputs_zero hd).1 a ha)

/-- Every engine step keeps the invariant. -/
theorem engine (h : s.Inv) (hc : EngineCase s t) : t.Inv := by
  have hb := hc.busy
  obtain ⟨hm, hp⟩ := h
  cases hc with
  | digestB hph bs h =>
    subst h
    exact ⟨{ hm with db_wf := Memory.wf_load _ _ bs hm.db_wf, db_in := Memory.within_load _ _ bs hm.db_in },
      hp.advance hb _ _ _ _ _ .digestA rfl (fun _ => hp.before_rounds (.inl hph)) nofun nofun⟩
  | digestA hph bs h =>
    subst h
    exact ⟨{ hm with da_wf := Memory.wf_load _ _ bs hm.da_wf, da_in := Memory.within_load _ _ bs hm.da_in },
      hp.advance hb _ _ _ _ _ .dp rfl (fun _ => hp.before_rounds (.inr (.inl hph))) nofun nofun⟩
  | dp hph bs h =>
    subst h
    exact ⟨{ hm with pp_wf := Memory.wf_load _ _ bs hm.pp_wf, pp_in := Memory.within_load _ _ bs hm.pp_in },
      hp.advance hb _ _ _ _ _ .ds rfl (fun _ => hp.before_rounds (.inr (.inr (.inl hph)))) nofun nofun⟩
  | ds hph bs h =>
    subst h
    have hidx := hp.before_rounds (.inr (.inr (.inr hph)))
    have hrounds := (hp.inputs_legal hb).rounds.1
    exact ⟨{ hm with sp_wf := Memory.wf_load _ _ bs hm.sp_wf, sp_in := Memory.within_load _ _ bs hm.sp_in },
      hp.advance hb _ _ _ _ _ .round rfl (fun _ => hidx) (fun _ => by rw [hidx]; simp; omega) nofun⟩
  | round hph bs h =>
    subst h
    have hlt := hp.round_index hph
    have hidx : (BitVec.ofNat 32 (s.roundidx.toNat + 1)).toNat = s.roundidx.toNat + 1 := by
      simp only [BitVec.toNat_ofNat]
      omega
    refine ⟨{ hm with da_wf := Memory.wf_load _ _ bs hm.da_wf, da_in := Memory.within_load _ _ bs hm.da_in }, ?_⟩
    by_cases hlast : s.roundidx.toNat + 1 = s.rounds.toNat
    · rw [if_pos hlast]
      exact hp.advance hb _ _ _ _ _ .encode rfl nofun nofun fun _ => BitVec.eq_of_toNat_eq (hidx.trans hlast)
    · rw [if_neg hlast]
      exact hp.advance hb _ _ _ _ _ .round rfl nofun (fun _ => by omega) nofun
  | encode hph h =>
    subst h
    have hraw : s.digestAReg.length ≤ 64 := s.length_digestAReg ▸ digestLen_le s.variant
    have henc : (encodeDigest s.variant s.digestAReg).length ≤ 88 :=
      length_encodeDigest s.variant s.digestAReg ▸ encodedLen_le s.variant
    have hmem := (hm.writeBytes 0x080 s.digestAReg fun a hl hu =>
      bufferAddr_of_outputAddr _ a ((outputAddr_iff a).mpr (by omega))).writeBytes 0x0C0
      (encodeDigest s.variant s.digestAReg) fun a hl hu =>
        bufferAddr_of_outputAddr _ a ((outputAddr_iff a).mpr (by omega))
    exact ⟨{ hmem.wipeInternals with }, .of_not_busy rfl rfl ⟨rfl, rfl, rfl, rfl⟩ fun hd => absurd rfl hd⟩

end State.Inv

/-- Settles O47: the invariant is kept by reset, by each of the ten kinds of host transaction and by each engine
step. -/
theorem stepKeepsTheInvariant : Obligations.StepKeepsTheInvariant := by
  intro s t h hstep
  exact step_keeps (fun s ev h => h.setFlags _ _ _ _ ev) (fun s ev _ => .reset s.pwSize ev)
    (fun _ _ _ h => h.host) (fun _ _ h => h.engine) h hstep

/-! ### RAW and ENC in DONE (10_state.md R33, R34, R37, R38) -/

namespace State.OutputsAgree

variable {s t : State}

theorem of_ne_done (h : s.phase ≠ .done) : s.OutputsAgree := fun hd => absurd hd h

/-- The agreement speaks of the phase, the two lengths and the output bytes alone. -/
theorem congr (h : s.OutputsAgree) (hph : t.phase = s.phase) (hraw : t.rawlen = s.rawlen) (henc : t.enclen = s.enclen)
    (hmem : ∀ a, outputAddr a = true → t.mem.read a = s.mem.read a) : t.OutputsAgree := by
  intro hd
  rw [hraw, henc, State.rawBuffer_congr hmem, State.encBuffer_congr hmem]
  exact h (hph ▸ hd)

/-- Every host transaction keeps the agreement: those that write a buffer write an input, and START, ABORT while BUSY
and CLEAR leave DONE. -/
theorem host {i : Instr} (h : s.OutputsAgree) (hc : HostCase s i t) : t.OutputsAgree := by
  cases hc with
  | same r ht => exact ht ▸ h.congr rfl rfl rfl fun _ _ => rfl
  | cmderr hi ht => exact ht ▸ h.congr rfl rfl rfl fun _ _ => rfl
  | werr hi hb ht => exact ht ▸ h.congr rfl rfl rfl fun _ _ => rfl
  | inten data hi ht => exact ht ▸ h.congr rfl rfl rfl fun _ _ => rfl
  | reg hi hb v r p l ht => exact ht ▸ h.congr rfl rfl rfl fun _ _ => rfl
  | start hi hb hl ht => exact ht ▸ of_ne_done nofun
  | startBad hi hb hl ht => exact ht ▸ of_ne_done nofun
  | abort hi hb ht => exact ht ▸ of_ne_done nofun
  | clear hi hb ht => exact ht ▸ of_ne_done nofun
  | mem hi hb o data ho ht =>
    exact ht ▸ h.congr rfl rfl rfl fun a ha => Memory.read_writeBytes_of_output _ o data a (by omega) ha

end State.OutputsAgree

/-- A digest and its encoding written over zero outputs fill RAW and ENC, each followed by zeros (R236). -/
theorem State.buffers_of_writeBytes {s t : State} (d e : List Byte) (hd : d.length ≤ 64) (he : e.length ≤ 88)
    (hz : ∀ a, outputAddr a = true → s.mem.read a = 0)
    (ht : t.mem = (s.mem.writeBytes 0x080 d).writeBytes 0x0C0 e) :
    t.rawBuffer = d ++ List.replicate (64 - d.length) 0 ∧ t.encBuffer = e ++ List.replicate (88 - e.length) 0 := by
  constructor
  · rw [State.rawBuffer, ht, Memory.bytes_writeBytes_of_disjoint _ 0x080 64 0x0C0 e (.inr (by omega))]
    exact Memory.bytes_writeBytes _ 0x080 64 d hd fun a hl hu => hz a ((outputAddr_iff a).mpr (by omega))
  · rw [State.encBuffer, ht]
    refine Memory.bytes_writeBytes _ 0x0C0 88 e he fun a hl hu => ?_
    rw [Memory.read_writeBytes, if_neg (by omega)]
    exact hz a ((outputAddr_iff a).mpr (by omega))

/-- Every engine step keeps the agreement: SEQ_ENCODE establishes it, the others do not lead to DONE. -/
theorem State.OutputsAgree.engine {s t : State} (hinv : s.Inv) (hc : EngineCase s t) : t.OutputsAgree := by
  have hb := hc.busy
  cases hc with
  | digestB _ _ ht => exact ht ▸ of_ne_done nofun
  | digestA _ _ ht => exact ht ▸ of_ne_done nofun
  | dp _ _ ht => exact ht ▸ of_ne_done nofun
  | ds _ _ ht => exact ht ▸ of_ne_done nofun
  | round _ _ ht =>
    refine ht ▸ of_ne_done ?_
    show (if _ then Phase.encode else Phase.round) ≠ .done
    split <;> nofun
  | encode _ ht =>
    obtain ⟨hzero, -, -⟩ := hinv.phaseOK.outputs_zero (PhaseOK.ne_done_of_busy hb)
    obtain ⟨hraw, henc⟩ := State.buffers_of_writeBytes (t := t) s.digestAReg (encodeDigest s.variant s.digestAReg)
      (by simpa using digestLen_le s.variant) (by simpa using encodedLen_le s.variant) hzero (by rw [ht])
    rw [s.length_digestAReg] at hraw
    rw [length_encodeDigest] at henc
    have hvar : s.variant = 5 ∨ s.variant = 6 := by
      simpa [State.variantOK] using s.variantOK_iff.mpr (hinv.phaseOK.inputs_legal hb).variant
    intro _
    rcases hvar with hv | hv
    · have hd : s.digestAReg.length = 32 := by simp [hv, digestLen]
      rw [hv] at hraw henc
      refine .inl ⟨by simp [ht, hv, digestLen], by simp [ht, hv, encodedLen], ?_, ?_⟩
      · rw [hraw, List.drop_left' hd]; rfl
      · rw [henc, hraw, List.take_left' hd]; rfl
    · rw [hv] at hraw henc
      refine .inr ⟨by simp [ht, hv, digestLen], by simp [ht, hv, encodedLen], ?_⟩
      rw [henc, hraw]
      simp [digestLen, encodedLen]

/-- Settles O48: every step keeps the agreement together with the invariant, which gives SEQ_ENCODE its zero outputs and
its legal variant. -/
theorem stepKeepsOutputsInAgreement : Obligations.StepKeepsOutputsInAgreement := by
  intro s t hinv h hstep
  refine (step_keeps (P := fun s => s.Inv ∧ s.OutputsAgree) ?_ ?_ ?_ ?_ ⟨hinv, h⟩ hstep).2
  · exact fun s ev ⟨hi, ho⟩ => ⟨hi.setFlags _ _ _ _ ev, ho.congr rfl rfl rfl fun _ _ => rfl⟩
  · exact fun s ev _ => ⟨.reset s.pwSize ev, .of_ne_done nofun⟩
  · exact fun _ _ _ ⟨hi, ho⟩ hc => ⟨hi.host hc, ho.host hc⟩
  · exact fun _ _ ⟨hi, _⟩ hc => ⟨hi.engine hc, .engine hi hc⟩

/-! ### Reset (10_state.md R48) -/

/-- Settles O1: after reset every memory is the empty list, which reads 0 everywhere. -/
theorem resetLeavesTheListedValues : Obligations.ResetLeavesTheListedValues := by
  refine ⟨⟨Config.pwSize, rfl⟩, fun pw => ?_⟩
  have hbytes (base n : Nat) : (State.resetAt pw).mem.bytes base n = List.replicate n 0 := Memory.bytes_nil base n
  have hstatus : (State.resetAt pw).status = 0 := by
    simp [State.status, State.irq, State.busy, State.resetAt, Phase.busy, Phase.code]
  have herrcode : (State.resetAt pw).errcodeWord = 0 := by simp [State.errcodeWord, State.resetAt, ErrCode.code]
  have hinten : (State.resetAt pw).intenWord = 0 := by simp [State.intenWord, State.resetAt]
  exact ⟨rfl, rfl, rfl, hstatus, rfl, herrcode, rfl, hinten, rfl, rfl, rfl, rfl, rfl, rfl, rfl, rfl, fun _ => rfl,
    hbytes _ _, hbytes _ _, hbytes _ _, hbytes _ _, fun _ => rfl, fun _ => rfl, fun _ => rfl, fun _ => rfl, rfl, rfl⟩

/-- Settles O3: the base case of the two step lemmas. -/
theorem resetSatisfiesTheInvariant : Obligations.ResetSatisfiesTheInvariant :=
  ⟨.reset Config.pwSize [], fun pw => ⟨.reset pw [], .of_ne_done nofun⟩⟩

/-! ### STATUS (10_state.md R25) -/

theorem getLsbD_append_ofBool {n : Nat} (x : BitVec n) (b : Bool) (i : Nat) :
    (x ++ BitVec.ofBool b).getLsbD i = if i = 0 then b else x.getLsbD (i - 1) := by
  rw [BitVec.getLsbD_append]
  by_cases h : i = 0 <;> simp [h]

theorem extractLsb'_eq_of_getLsbD_eq {w : Nat} (x : BitVec w) (lo n : Nat) (y : BitVec n)
    (h : ∀ i, i < n → x.getLsbD (lo + i) = y.getLsbD i) : BitVec.extractLsb' lo n x = y :=
  BitVec.eq_of_getLsbD_eq fun i hi => by simp [h i hi, hi]

/-- The bits of the concatenation STATUS is made of. -/
theorem getLsbD_statusFields (q : Bool) (c : BitVec 4) (w m e d b : Bool) (i : Nat) (hi : i < 32) :
    ((0 : BitVec 19) ++ BitVec.ofBool q ++ c ++ (0 : BitVec 3) ++ BitVec.ofBool w ++ BitVec.ofBool m ++
      BitVec.ofBool e ++ BitVec.ofBool d ++ BitVec.ofBool b).getLsbD i =
      if i = 0 then b else if i = 1 then d else if i = 2 then e else if i = 3 then m else if i = 4 then w
      else if i < 8 then false else if i < 12 then c.getLsbD (i - 8) else if i = 12 then q else false := by
  rw [getLsbD_append_ofBool, getLsbD_append_ofBool, getLsbD_append_ofBool, getLsbD_append_ofBool,
    getLsbD_append_ofBool, BitVec.getLsbD_append, BitVec.getLsbD_append, getLsbD_append_ofBool]
  interval_cases i <;> rfl

/-- Bit `i` of STATUS as a host reads it. -/
theorem State.getLsbD_status (s : State) (i : Nat) (hi : i < 32) :
    s.status.getLsbD i =
      if i = 0 then s.busy else if i = 1 then decide (s.phase = .done) else if i = 2 then decide (s.phase = .error)
      else if i = 3 then s.cmderr else if i = 4 then s.werr else if i < 8 then false
      else if i < 12 then s.phase.code.getLsbD (i - 8) else if i = 12 then s.irq else false :=
  getLsbD_statusFields _ _ _ _ _ _ _ i hi

/-- The three low bits of STATUS: ERR, DONE and BUSY. -/
theorem State.status_low (s : State) :
    BitVec.extractLsb' 0 3 s.status =
      BitVec.ofBool (s.phase = .error) ++ BitVec.ofBool (s.phase = .done) ++ BitVec.ofBool s.busy := by
  refine extractLsb'_eq_of_getLsbD_eq _ 0 3 _ fun i hi => ?_
  rw [getLsbD_append_ofBool, getLsbD_append_ofBool, s.getLsbD_status _ (by omega)]
  interval_cases i <;> simp

/-- Settles O24: each field is read off the bits, and the one-hot rule is a case split on the phase. -/
theorem statusShowsItsFields : Obligations.StatusShowsItsFields := by
  intro s
  have bit := s.getLsbD_status
  refine ⟨bit 0 (by omega), bit 1 (by omega), bit 2 (by omega), bit 3 (by omega), bit 4 (by omega), ?_, ?_,
    bit 12 (by omega), ?_, fun hp => ?_, fun hp => ?_⟩
  · refine extractLsb'_eq_of_getLsbD_eq _ 5 3 _ fun i hi => ?_
    rw [bit _ (by omega)]
    interval_cases i <;> rfl
  · refine extractLsb'_eq_of_getLsbD_eq _ 8 4 _ fun i hi => ?_
    rw [bit _ (by omega)]
    interval_cases i <;> rfl
  · refine extractLsb'_eq_of_getLsbD_eq _ 13 19 _ fun i hi => ?_
    rw [bit _ (by omega)]
    interval_cases i <;> rfl
  · rw [s.status_low, State.busy, hp]
    rfl
  · rw [s.status_low, State.busy]
    cases h : s.phase with
    | idle => exact absurd h hp
    | done => exact .inr (.inl rfl)
    | error => exact .inr (.inr rfl)
    | digestB | digestA | dp | ds | round | encode => exact .inl rfl

/-! ### Who writes ERRCODE, INTEN and PWMAX (10_state.md R26, R27, R35) -/

theorem State.startError_ne_aborted (s : State) : s.startError ≠ .aborted := by
  unfold State.startError
  split_ifs <;> nofun

/-- A host transaction that changes ERRCODE is a START or a CLEAR outside BUSY, or an ABORT while BUSY. -/
theorem HostCase.errcode {s t : State} {i : Instr} (hc : HostCase s i t) (hne : t.errcode ≠ s.errcode) :
    (i.isStart ∧ s.busy = false ∧ t.errcode ≠ .aborted) ∨ (i.isAbort ∧ s.busy = true ∧ t.errcode = .aborted) ∨
      (i.isClear ∧ s.busy = false ∧ t.errcode = .none) := by
  cases hc with
  | start hi hb hl h => exact .inl ⟨hi, hb, by subst h; nofun⟩
  | startBad hi hb hl h => exact .inl ⟨hi, hb, by subst h; exact s.startError_ne_aborted⟩
  | abort hi hb h => exact .inr (.inl ⟨hi, hb, by subst h; rfl⟩)
  | clear hi hb h => exact .inr (.inr ⟨hi, hb, by subst h; rfl⟩)
  | same | cmderr | werr | inten | reg | mem => subst t; exact absurd rfl hne

/-- A host transaction that changes INTEN is a write to it. -/
theorem HostCase.ie {s t : State} {i : Instr} (hc : HostCase s i t) (hne : t.ie ≠ s.ie) :
    ∃ data, i = .busWInten data ∧ t.ie = data.getLsbD 0 := by
  cases hc with
  | inten data hi h => exact ⟨data, hi, by rw [h]⟩
  | same | cmderr | start | startBad | abort | clear | werr | reg | mem => subst t; exact absurd rfl hne

theorem HostCase.pwSize {s t : State} {i : Instr} (hc : HostCase s i t) : t.pwSize = s.pwSize := by
  cases hc <;> subst t <;> rfl

/-- Settles O52: of the events that can change ERRCODE, the reset clears it and the host transactions are the three
commands. -/
theorem onlyStartAbortClearAndResetWriteErrcode : Obligations.OnlyStartAbortClearAndResetWriteErrcode := by
  intro s t hstep hne
  rcases step_changes_cases State.errcode (fun _ _ => rfl) (fun _ _ hc => by rw [hc.frame]) hstep hne
    with ⟨rest, hev, rfl⟩ | ⟨rest, i, hnext, hc⟩
  · exact .inl ⟨⟨rest, hev⟩, rfl⟩
  · exact .inr ⟨i, hnext, hc.errcode hne⟩

/-- Settles O54: of the events that can change INTEN, the one host transaction is the write to it. -/
theorem onlyIntenWritesAndResetChangeInten : Obligations.OnlyIntenWritesAndResetChangeInten := by
  intro s t hstep hne
  rcases step_changes_cases State.ie (fun _ _ => rfl) (fun _ _ hc => by rw [hc.frame]) hstep hne
    with ⟨rest, hev, -⟩ | ⟨rest, i, hnext, hc⟩
  · exact .inl ⟨rest, hev⟩
  · obtain ⟨data, rfl, hie⟩ := hc.ie hne
    exact .inr ⟨data, hnext, hie⟩

theorem step_pwSize {s t : State} (hstep : step s = .next t) : t.pwSize = s.pwSize :=
  step_keeps (P := fun u => u.pwSize = s.pwSize) (fun _ _ h => h) (fun _ _ h => h) (fun _ _ _ h hc => hc.pwSize.trans h)
    (fun _ _ h hc => (congrArg State.pwSize hc.frame).trans h) rfl hstep

theorem State.readOffset_pwmax (s : State) : s.readOffset Config.offPwmax = BitVec.ofNat 32 s.pwSize.bytes := rfl

/-- Settles O55: PWMAX is read from the size alone, which no step changes. -/
theorem pwmaxIsConstant : Obligations.PwmaxIsConstant := by
  intro s t hstep
  have hsize := step_pwSize hstep
  have hlt := s.pwSize.isLt
  rw [t.readOffset_pwmax, s.readOffset_pwmax, hsize]
  refine ⟨rfl, rfl, ?_⟩
  simp only [BitVec.toNat_ofNat, PwSize.bytes]
  omega

/-! ### What a read can see (10_state.md R39, 60_exceptions.md R267) -/

/-- A read is its response: the mapped word, or a bus error (45_commands.md R205). -/
theorem exec_busR (off : BitVec 12) (size : BitVec 8) (s : State) :
    exec (.busR off size) s = .next { s with
      response := if accessOK off size then .data (s.readOffset off.toNat) else .busError } := by
  simp only [exec, execBusR]
  split <;> rfl

/-- A read returns nothing of the PW buffer and nothing of the internal registers. -/
theorem State.readOffset_congr (s : State) (m db da pp sp : Memory) (acc : List Byte)
    (hm : ∀ a, a < Config.pwBase → m.read a = s.mem.read a) (o : Nat) :
    { s with mem := m, db := db, da := da, pp := pp, sp := sp, acc := acc }.readOffset o = s.readOffset o := by
  have hw (ho : o < 0x118) : m.word o = s.mem.word o :=
    Memory.word_congr _ _ _ fun a _ ha => hm a (show a < 0x200 by omega)
  unfold State.readOffset
  iterate 12 refine ite_congr rfl (fun _ => rfl) fun _ => ?_
  iterate 3 refine ite_congr rfl (fun h => hw (Nat.lt_of_lt_of_le h.2 (by decide))) fun _ => ?_
  rfl

/-- Settles O57: the interrupt level is a function of INTEN and the phase, and a read of the visible bytes alone. -/
theorem secretsAreNotObservable : Obligations.SecretsAreNotObservable := by
  intro s t off size h
  obtain ⟨hfields, hmem⟩ := h
  have hread : s.readOffset off.toNat = t.readOffset off.toNat := by
    rw [← hfields]
    exact t.readOffset_congr _ _ _ _ _ _ hmem _
  refine ⟨by rw [← hfields]; rfl, _, exec_busR off size s, ?_⟩
  rw [exec_busR, hread]

end Sys2Proof.Machine
end

section
/-! SUPPORT. The statements about the memory map (20_memory.md): how an event selects its instruction, what a bad access
and a read answer, and how long the outputs of a run stay. -/

namespace Sys2Proof.Machine

/-! ### Runs of the machine -/

theorem runSteps_succ_eq_next {n : Nat} {s t : State} :
    runSteps (n + 1) s = .next t ↔ ∃ u, step s = .next u ∧ runSteps n u = .next t := by
  simp only [runSteps]
  cases step s <;> simp

/-- A property that every step keeps is kept by every run. -/
theorem runSteps_keeps {P : State → Prop} (keep : ∀ s t, P s → step s = .next t → P t) {n : Nat} {s t : State}
    (h : P s) (hrun : runSteps n s = .next t) : P t := by
  induction n generalizing s with
  | zero =>
    injection hrun with hst
    exact hst ▸ h
  | succ n ih =>
    obtain ⟨u, hstep, hrun⟩ := runSteps_succ_eq_next.mp hrun
    exact ih (keep s u h hstep) hrun

/-! ### The outputs in DONE (20_memory.md R70) -/

/-- `t` has the phase and the outputs of `s`: RAW, ENC, their lengths and ROUNDIDX. -/
structure State.OutputsKept (s t : State) : Prop where
  phase : t.phase = s.phase
  mem : ∀ a, outputAddr a = true → t.mem.read a = s.mem.read a
  rawlen : t.rawlen = s.rawlen
  enclen : t.enclen = s.enclen
  roundidx : t.roundidx = s.roundidx

/-- No scheduled event is a reset or a host transaction that starts or clears. -/
def State.NoCommandAhead (s : State) : Prop :=
  ∀ e ∈ s.events, e ≠ .reset ∧
    ∀ packet i, e = .host packet → decodeHost s.pwSize packet = .ok i → ¬ i.isStart ∧ ¬ i.isClear

namespace State.OutputsKept

variable {s t u : State}

theorem refl (s : State) : s.OutputsKept s := ⟨rfl, fun _ _ => rfl, rfl, rfl, rfl⟩

theorem trans (h : s.OutputsKept t) (h' : t.OutputsKept u) : s.OutputsKept u where
  phase := h'.phase.trans h.phase
  mem := fun a ha => (h'.mem a ha).trans (h.mem a ha)
  rawlen := h'.rawlen.trans h.rawlen
  enclen := h'.enclen.trans h.enclen
  roundidx := h'.roundidx.trans h.roundidx

/-- Outside BUSY no host transaction but START and CLEAR touches the outputs: an input write goes to SALT or PW. -/
theorem host {i : Instr} (hb : s.busy = false) (hns : ¬ i.isStart) (hnc : ¬ i.isClear) (hc : HostCase s i t) :
    s.OutputsKept t := by
  cases hc with
  | same r h => exact h ▸ { refl s with }
  | cmderr hi h => exact h ▸ { refl s with }
  | inten data hi h => exact h ▸ { refl s with }
  | reg hi hb v r p l h => exact h ▸ { refl s with }
  | mem hi hb o data ho h =>
    exact h ▸ { refl s with mem := fun a ha => Memory.read_writeBytes_of_output _ o data a (by omega) ha }
  | start hi hb hl h => exact absurd hi hns
  | startBad hi hb hl h => exact absurd hi hns
  | clear hi hb h => exact absurd hi hnc
  | abort hi hbusy h => exact absurd (hb.symm.trans hbusy) Bool.false_ne_true
  | werr hi hbusy h => exact absurd (hb.symm.trans hbusy) Bool.false_ne_true

end State.OutputsKept

theorem State.busy_of_done {s : State} (h : s.phase = .done) : s.busy = false := by
  rw [State.busy, h]
  rfl

theorem HostCase.events {s t : State} {i : Instr} (hc : HostCase s i t) : t.events = s.events := by
  cases hc <;> subst t <;> rfl

/-- A step schedules no event: it takes the next one, where there is one. -/
theorem step_events {s t : State} (hstep : step s = .next t) : t.events = s.events.tail := by
  have tail {rest : List Event} (h : s.events = .engine :: rest ∨ (s.events = [] ∧ rest = [])) :
      rest = s.events.tail := by
    rcases h with h | ⟨h, rfl⟩ <;> rw [h] <;> rfl
  rcases step_cases s t hstep with ⟨rest, hev, rfl⟩ | ⟨packet, rest, i, hev, -, -, hf, he⟩ |
    ⟨rest, hev, ⟨-, rfl⟩ | ⟨i, hi, he⟩⟩
  · rw [hev]; rfl
  · rw [(host_cases _ t i hf he).events, hev]; rfl
  · exact tail hev
  · rw [(engine_cases { s with events := rest } t i hi he).frame]; exact tail hev

/-- With no command scheduled, none is scheduled after the step. -/
theorem State.NoCommandAhead.step {s t : State} (h : s.NoCommandAhead) (hstep : step s = .next t) :
    t.NoCommandAhead := by
  intro e he
  rw [step_events hstep] at he
  rw [step_pwSize hstep]
  exact h e (List.mem_of_mem_tail he)

/-- A step from DONE whose event is no reset, START or CLEAR keeps the outputs: the engine has no step there. -/
theorem State.OutputsKept.step {s t : State} (hd : s.phase = .done) (hno : s.NoCommandAhead)
    (hstep : step s = .next t) : s.OutputsKept t := by
  have hb := State.busy_of_done hd
  rcases step_cases s t hstep with ⟨rest, hev, -⟩ | ⟨packet, rest, i, hev, hdec, -, hf, he⟩ |
    ⟨rest, -, ⟨-, rfl⟩ | ⟨i, hi, he⟩⟩
  · exact absurd rfl (hno .reset (hev ▸ List.mem_cons_self)).1
  · obtain ⟨hns, hnc⟩ := (hno (.host packet) (hev ▸ List.mem_cons_self)).2 packet i rfl hdec
    exact { host (s := { s with events := rest }) hb hns hnc (host_cases _ t i hf he) with }
  · exact { refl s with }
  · have hbusy := (engine_cases { s with events := rest } t i hi he).busy
    exact absurd (hb.symm.trans hbusy) Bool.false_ne_true

/-- Settles O56: each step keeps the outputs and leaves no command ahead, so every run does. -/
theorem outputsStayUntilACommand : Obligations.OutputsStayUntilACommand := by
  intro n s t hd hno hrun
  have keep (u v : State) (h : s.OutputsKept u ∧ u.NoCommandAhead) (hstep : step u = .next v) :
      s.OutputsKept v ∧ v.NoCommandAhead :=
    ⟨h.1.trans (.step (h.1.phase.trans hd) h.2 hstep), h.2.step hstep⟩
  obtain ⟨hkept, -⟩ := runSteps_keeps keep ⟨.refl s, hno⟩ hrun
  exact ⟨hkept.phase.trans hd, State.rawBuffer_congr hkept.mem, State.encBuffer_congr hkept.mem, hkept.rawlen,
    hkept.enclen, hkept.roundidx⟩

/-! ### The instruction of an event (20_memory.md R68, R69; 30_encoding.md R84) -/

theorem decodeHost_eq_ok_iff {pw : PwSize} {bs : List Byte} {i : Instr} :
    decodeHost pw bs = .ok i ↔ decode pw bs = .ok i ∧ i.format ≠ .seq := by
  unfold decodeHost
  cases decode pw bs with
  | error e => simp
  | ok j =>
    by_cases hj : j.format = .seq
    · simp only [hj, if_true, reduceCtorEq, Except.ok.injEq, false_iff]
      exact fun ⟨hji, hi⟩ => hi (hji ▸ hj)
    · simp only [hj, if_false, Except.ok.injEq]
      exact ⟨fun hji => ⟨hji, hji ▸ hj⟩, And.left⟩

/-- The packet of a phase code decodes to the engine step of that code. -/
theorem decode_phaseByte (pw : PwSize) (code : BitVec 4) : decode pw [BitVec.setWidth 8 code] = decodeSeq code := by
  have hlt : (BitVec.setWidth 8 code).toNat = code.toNat := by simp; omega
  simp [decode, hlt, code.isLt]

theorem State.fetchEngine_of_decodeSeq {s : State} {i : Instr} (h : decodeSeq s.phase.code = .ok i) :
    s.fetchEngine = some i := by
  rw [State.fetchEngine, h]

theorem engineMove_of_fetchEngine {s : State} {i : Instr} (h : s.fetchEngine = some i) : engineMove s = exec i s := by
  rw [engineMove, h]

theorem hostMove_of_decodeHost {s : State} {packet : List Byte} {i : Instr} (h : decodeHost s.pwSize packet = .ok i) :
    hostMove packet s = exec i s := by
  rw [hostMove, h]

theorem step_of_host {s : State} {packet : List Byte} {rest : List Event} (h : s.events = .host packet :: rest) :
    step s = hostMove packet { s with events := rest } := by
  rw [step, nextEvent, h]

theorem step_of_engine {s : State} {rest : List Event} (h : s.events = .engine :: rest) :
    step s = engineMove { s with events := rest } := by
  rw [step, nextEvent, h]

theorem step_of_no_event {s : State} (h : s.events = []) : step s = engineMove s := by
  rw [step, nextEvent, h]

/-- Settles O7: the event says which agent moves, and each agent runs what it fetched. -/
theorem stepRunsTheDecodedInstruction : Obligations.StepRunsTheDecodedInstruction := by
  have fetch {s : State} {i : Instr} (h : decode s.pwSize [BitVec.setWidth 8 s.phase.code] = .ok i) :
      s.fetchEngine = some i := State.fetchEngine_of_decodeSeq ((decode_phaseByte _ _).symm.trans h)
  refine ⟨fun s packet rest i hev hdec hf => ?_, fun s rest i hev hdec => ?_, fun s i hev hdec => ?_⟩
  · rw [step_of_host hev]
    exact hostMove_of_decodeHost (decodeHost_eq_ok_iff.mpr ⟨hdec, hf⟩)
  · rw [step_of_engine hev]
    exact engineMove_of_fetchEngine (fetch (s := { s with events := rest }) hdec)
  · rw [step_of_no_event hev]
    exact engineMove_of_fetchEngine (fetch hdec)

/-! ### Bad accesses (20_memory.md R61) and reads (R66) -/

theorem accessOK_eq_false_iff (off : BitVec 12) (size : BitVec 8) :
    accessOK off size = false ↔ off.toNat % 4 ≠ 0 ∨ size.toNat ≠ 4 := by
  have hsize : size ≠ 4 ↔ size.toNat ≠ 4 := BitVec.toNat_ne
  rw [← hsize]
  simp [accessOK, imp_iff_not_or]

/-- Settles O17: the size and the alignment are tested before the offset, for writes and for reads. -/
theorem badAccessGetsABusErrorOnly : Obligations.BadAccessGetsABusErrorOnly := by
  refine ⟨fun pw off size data hbad => ?_, fun off size data s => rfl, fun off size s hbad => ?_⟩
  · exact if_pos (hbad.imp_right BitVec.toNat_ne.mpr)
  · rw [exec_busR, (accessOK_eq_false_iff off size).mpr hbad]
    rfl

/-- What was last answered on the bus is not part of what is read. -/
theorem State.readOffset_response (s : State) (r : BusResponse) (o : Nat) :
    { s with response := r }.readOffset o = s.readOffset o := rfl

/-- Settles O23: a read replaces the response by one that does not depend on it. -/
theorem readsHaveNoSideEffects : Obligations.ReadsHaveNoSideEffects := by
  intro s off size
  refine ⟨_, exec_busR off size s, rfl, fun r => ?_⟩
  rw [exec_busR, State.readOffset_response]

end Sys2Proof.Machine
end

section
/-! SUPPORT. The statements about the encoding (30_encoding.md): what the packet of each format decodes to, that no
other byte list decodes, that the rows and their packets are inverse to each other, and how the agents issue them. -/

namespace Sys2Proof.Machine

/-! ### The packet of each format (30_encoding.md R80, R81, R84) -/

theorem decode_wordBytes (pw : PwSize) (word : Word) : decode pw (wordBytes word) = .ok (decodeCmd word) :=
  congrArg (fun w => Except.ok (decodeCmd w)) (bytesWord_wordBytes word)

theorem decode_readPacket (pw : PwSize) (off : BitVec 12) (size : BitVec 8) :
    decode pw (readPacket off size) = .ok (.busR off size) := by
  simp only [readPacket, leBytes, List.cons_append, List.nil_append, decode, decodeOff_leBytes off _ _ rfl]

theorem decode_writePacket (pw : PwSize) (off : BitVec 12) (size : BitVec 8) (data : Word) :
    decode pw (writePacket off size data) = .ok (decodeWrite pw off size data) := by
  have hdata : bytesWord (leBytes 4 data.toNat) = data := bytesWord_wordBytes data
  simp only [leBytes] at hdata
  simp only [writePacket, wordBytes, leBytes, List.cons_append, List.nil_append, decode,
    decodeOff_leBytes off _ _ rfl, hdata]

/-- Two bytes that decode to an offset are the offset's bytes. -/
theorem leBytes_of_decodeOff {b0 b1 : Byte} {off : BitVec 12} (h : decodeOff b0 b1 = .ok off) :
    leBytes 2 off.toNat = [b0, b1] := by
  simp only [decodeOff] at h
  split at h
  · next hlt =>
    injection h with h
    rw [← h, BitVec.toNat_ofNat, Nat.mod_eq_of_lt hlt]
    exact leBytes_leNat [b0, b1]
  · cases h

/-- The packets that decode, and what each format decodes to. -/
inductive Decodes (pw : PwSize) : List Byte → Instr → Prop
  /-- a CMD word (R81) -/
  | cmd (word : Word) : Decodes pw (wordBytes word) (decodeCmd word)
  /-- a bus write (R80) -/
  | write (off : BitVec 12) (size : BitVec 8) (data : Word) :
    Decodes pw (writePacket off size data) (decodeWrite pw off size data)
  /-- a bus read (R80) -/
  | read (off : BitVec 12) (size : BitVec 8) : Decodes pw (readPacket off size) (.busR off size)
  /-- a phase code that selects an engine step (R84) -/
  | seq (code : BitVec 4) (i : Instr) (h : decodeSeq code = .ok i) : Decodes pw [BitVec.setWidth 8 code] i

/-- A packet decodes exactly if it is the packet of one of the four formats. -/
theorem decode_eq_ok_iff {pw : PwSize} {bs : List Byte} {i : Instr} : decode pw bs = .ok i ↔ Decodes pw bs i := by
  constructor
  · intro h
    unfold decode at h
    split at h
    · next b =>
      split at h
      · next hb =>
        have hcode : BitVec.setWidth 8 (BitVec.ofNat 4 b.toNat) = b := by bv_omega
        exact hcode ▸ .seq _ i h
      · cases h
    · next b0 b1 size =>
      split at h
      · next off hoff =>
        injection h with h
        have hpacket : readPacket off size = [b0, b1, size] := by rw [readPacket, leBytes_of_decodeOff hoff]; rfl
        exact h ▸ hpacket ▸ .read off size
      · cases h
    · next c0 c1 c2 c3 =>
      injection h with h
      have hpacket := wordBytes_bytesWord [c0, c1, c2, c3] rfl
      exact h ▸ hpacket ▸ (bytesWord_wordBytes _).symm ▸ .cmd _
    · next b0 b1 size d0 d1 d2 d3 =>
      split at h
      · next off hoff =>
        injection h with h
        have hpacket : writePacket off size (bytesWord [d0, d1, d2, d3]) = [b0, b1, size, d0, d1, d2, d3] := by
          rw [writePacket, leBytes_of_decodeOff hoff, wordBytes_bytesWord _ rfl]
          rfl
        exact h ▸ hpacket ▸ .write off size _
      · cases h
    · cases h
  · rintro (word | ⟨off, size, data⟩ | ⟨off, size⟩ | ⟨code, i, h⟩)
    · exact decode_wordBytes pw word
    · exact decode_writePacket pw off size data
    · exact decode_readPacket pw off size
    · exact (decode_phaseByte pw code).trans h

/-! ### CMD words (30_encoding.md R82, R83) -/

theorem decodeCmd_of_three_lt {word : Word} (h : 3 < word.toNat) : decodeCmd word = .reserved word := by
  have hne (k : Word) (hk : k.toNat ≤ 3) : word ≠ k := by rintro rfl; omega
  rw [decodeCmd, if_neg (hne 0 (by decide)), if_neg (hne 1 (by decide)), if_neg (hne 2 (by decide)),
    if_neg (hne 3 (by decide))]

/-- A CMD word is one of the four defined ones or reserved. -/
theorem word_cases (word : Word) : word = 0 ∨ word = 1 ∨ word = 2 ∨ word = 3 ∨ 3 < word.toNat := by bv_omega

/-- A CMD word's row is well-formed, and its packet is that word. -/
theorem decodeCmd_spec (pw : PwSize) (word : Word) :
    (decodeCmd word).wf pw = true ∧ encode (decodeCmd word) = wordBytes word := by
  rcases word_cases word with rfl | rfl | rfl | rfl | h
  iterate 4 exact ⟨rfl, rfl⟩
  rw [decodeCmd_of_three_lt h]
  exact ⟨decide_eq_true h, rfl⟩

/-! ### Phase codes (30_encoding.md R84, R85) -/

/-- The engine step of a phase code is the row whose packet is that code. -/
theorem decodeSeq_spec {code : BitVec 4} {i : Instr} (pw : PwSize) (h : decodeSeq code = .ok i) :
    i.wf pw = true ∧ encode i = [BitVec.setWidth 8 code] := by
  unfold decodeSeq at h
  split_ifs at h <;> injection h with h <;> subst code i <;> exact ⟨rfl, rfl⟩

/-! ### Bus writes (30_encoding.md R80, 45_commands.md R200) -/

theorem decodeWrite_bad {off : BitVec 12} {size : BitVec 8} (pw : PwSize) (data : Word)
    (h : off.toNat % 4 ≠ 0 ∨ size ≠ 4) : decodeWrite pw off size data = .busWBad off size data :=
  if_pos h

theorem decodeWrite_inputReg (pw : PwSize) (reg : InputReg) (data : Word) :
    decodeWrite pw (BitVec.ofNat 12 reg.offset) 4 data = .busWInputReg reg data := by
  cases reg <;> rfl

/-- The offset is that of CMD, INTEN or an input register: the registers a write can reach (45_commands.md R200). -/
def registerOffset (o : Nat) : Prop := o = 0x000 ∨ o = 0x00C ∨ o = 0x010 ∨ o = 0x014 ∨ o = 0x018 ∨ o = 0x01C

/-- An accepted write to no register goes to SALT, to PW, or nowhere. -/
theorem decodeWrite_of_not_register {pw : PwSize} {off : BitVec 12} (data : Word) (h4 : off.toNat % 4 = 0)
    (h : ¬ registerOffset off.toNat) :
    decodeWrite pw off 4 data =
      if 0x040 ≤ off.toNat ∧ off.toNat < 0x050 then .busWSalt (BitVec.ofNat 2 ((off.toNat - 0x040) / 4)) data
      else if 0x200 ≤ off.toNat ∧ off.toNat < 0x200 + pw.bytes then
        .busWPw (BitVec.ofNat 10 ((off.toNat - 0x200) / 4)) data
      else .busWIgnored off data := by
  simp only [registerOffset, not_or] at h
  obtain ⟨hcmd, hinten, hvariant, hrounds, hpwlen, hsaltlen⟩ := h
  rw [decodeWrite, if_neg (by simp [h4]), if_neg hcmd, if_neg hinten, if_neg hvariant, if_neg hrounds, if_neg hpwlen,
    if_neg hsaltlen]
  rfl

theorem decodeWrite_salt (pw : PwSize) (w : BitVec 2) (data : Word) :
    decodeWrite pw (BitVec.ofNat 12 (saltOffset w)) 4 data = .busWSalt w data := by
  have hw := w.isLt
  have ho : (BitVec.ofNat 12 (saltOffset w)).toNat = 0x040 + 4 * w.toNat := by
    simp only [saltOffset, Config.saltBase, BitVec.toNat_ofNat]
    omega
  have hindex : BitVec.ofNat 2 ((0x040 + 4 * w.toNat - 0x040) / 4) = w := by bv_omega
  rw [decodeWrite_of_not_register data (by omega) (by simp only [registerOffset]; omega), ho, if_pos (by omega), hindex]

theorem decodeWrite_pw {pw : PwSize} {w : BitVec 10} (data : Word) (h : w.toNat ≤ pw.val) :
    decodeWrite pw (BitVec.ofNat 12 (pwOffset w)) 4 data = .busWPw w data := by
  have hpw := pw.isLt
  have ho : (BitVec.ofNat 12 (pwOffset w)).toNat = 0x200 + 4 * w.toNat := by
    simp only [pwOffset, Config.pwBase, BitVec.toNat_ofNat]
    omega
  have hindex : BitVec.ofNat 10 ((0x200 + 4 * w.toNat - 0x200) / 4) = w := by bv_omega
  rw [decodeWrite_of_not_register data (by omega) (by simp only [registerOffset]; omega), ho, if_neg (by omega),
    if_pos (by simp only [PwSize.bytes]; omega), hindex]

/-- The offsets whose writes are ignored, in the words of 45_commands.md R203. -/
theorem ignoredOffset_iff {pw : PwSize} {o : Nat} :
    ignoredOffset pw o = true ↔ o % 4 = 0 ∧ ¬ registerOffset o ∧ ¬ (0x040 ≤ o ∧ o < 0x050) ∧
      ¬ (0x200 ≤ o ∧ o < 0x200 + pw.bytes) := by
  simp [ignoredOffset, registerOffset, and_assoc, Config.offCmd, Config.offInten, Config.offVariant, Config.offRounds,
    Config.offPwlen, Config.offSaltlen, Config.saltBase, Config.saltSize, Config.pwBase, imp_iff_not_or]

theorem decodeWrite_ignored {pw : PwSize} {off : BitVec 12} (data : Word) (h : ignoredOffset pw off.toNat = true) :
    decodeWrite pw off 4 data = .busWIgnored off data := by
  obtain ⟨h4, hreg, hsalt, hpw⟩ := ignoredOffset_iff.mp h
  rw [decodeWrite_of_not_register data h4 hreg, if_neg hsalt, if_neg hpw]

theorem exists_saltOffset {o : Nat} (h4 : o % 4 = 0) (h : 0x040 ≤ o ∧ o < 0x050) : ∃ w, o = saltOffset w := by
  refine ⟨BitVec.ofNat 2 ((o - 0x040) / 4), ?_⟩
  simp only [saltOffset, Config.saltBase, BitVec.toNat_ofNat]
  omega

theorem exists_pwOffset {pw : PwSize} {o : Nat} (h4 : o % 4 = 0) (h : 0x200 ≤ o ∧ o < 0x200 + pw.bytes) :
    ∃ w, o = pwOffset w ∧ w.toNat ≤ pw.val := by
  have hpw := pw.isLt
  refine ⟨BitVec.ofNat 10 ((o - 0x200) / 4), ?_⟩
  simp only [PwSize.bytes, pwOffset, Config.pwBase, BitVec.toNat_ofNat] at h ⊢
  omega

/-- A bus write's row is well-formed, and its packet is that write. -/
theorem decodeWrite_spec (pw : PwSize) (off : BitVec 12) (size : BitVec 8) (data : Word) :
    (decodeWrite pw off size data).wf pw = true ∧
      encode (decodeWrite pw off size data) = writePacket off size data := by
  by_cases hbad : off.toNat % 4 ≠ 0 ∨ size ≠ 4
  · rw [decodeWrite_bad pw data hbad]
    exact ⟨by simpa [Instr.wf, imp_iff_not_or] using hbad, rfl⟩
  obtain ⟨h4, rfl⟩ : off.toNat % 4 = 0 ∧ size = 4 := by simpa using hbad
  have off_eq {n : Nat} (h : off.toNat = n) : off = BitVec.ofNat 12 n := by simp [← h]
  by_cases hreg : registerOffset off.toNat
  · rcases hreg with h | h | h | h | h | h <;> rw [off_eq h] <;> exact ⟨rfl, rfl⟩
  by_cases hsalt : 0x040 ≤ off.toNat ∧ off.toNat < 0x050
  · obtain ⟨w, hw⟩ := exists_saltOffset h4 hsalt
    rw [off_eq hw, decodeWrite_salt]
    exact ⟨rfl, rfl⟩
  by_cases hpw : 0x200 ≤ off.toNat ∧ off.toNat < 0x200 + pw.bytes
  · obtain ⟨w, hw, hle⟩ := exists_pwOffset h4 hpw
    rw [off_eq hw, decodeWrite_pw data hle]
    exact ⟨decide_eq_true hle, rfl⟩
  · have hign := ignoredOffset_iff.mpr ⟨h4, hreg, hsalt, hpw⟩
    rw [decodeWrite_ignored data hign]
    exact ⟨hign, rfl⟩

/-! ### Decoding and encoding are inverse -/

/-- Settles O5: row by row, the packet decodes by its format, and the word, offset or code selects the row again. -/
theorem decodeInvertsEncode : Obligations.DecodeInvertsEncode := by
  intro pw i hwf
  cases i with
  | nop | start | abort | clear => exact decode_wordBytes pw _
  | reserved word => rw [encode, decode_wordBytes, decodeCmd_of_three_lt (of_decide_eq_true hwf)]
  | busWBad off size data =>
    rw [encode, decode_writePacket, decodeWrite_bad pw data (by simpa [Instr.wf, imp_iff_not_or] using hwf)]
  | busWCmd data | busWInten data => exact decode_writePacket pw _ 4 data
  | busWInputReg reg data => rw [encode, decode_writePacket, decodeWrite_inputReg]
  | busWSalt w data => rw [encode, decode_writePacket, decodeWrite_salt]
  | busWPw w data => rw [encode, decode_writePacket, decodeWrite_pw data (of_decide_eq_true hwf)]
  | busWIgnored off data => rw [encode, decode_writePacket, decodeWrite_ignored data hwf]
  | busR off size => exact decode_readPacket pw off size
  | seqDigestB | seqDigestA | seqDp | seqDs | seqRound | seqEncode => rfl

/-- Settles O6: a packet that decodes is that of a format, and in each format the row found is well-formed and has that
packet. -/
theorem encodeInvertsDecode : Obligations.EncodeInvertsDecode := by
  intro pw bytes i h
  cases decode_eq_ok_iff.mp h with
  | cmd word => exact decodeCmd_spec pw word
  | write off size data => exact decodeWrite_spec pw off size data
  | read off size => exact ⟨rfl, rfl⟩
  | seq code i hseq => exact decodeSeq_spec pw hseq

/-- A table word of 32 bits is a CMD word. -/
theorem decodeTableWord_cmd (word : Word) : decodeTableWord 32 word.toNat = some (decodeCmd word) := by
  have h : decode Config.pwSize (tablePacket 32 word.toNat) = .ok (decodeCmd word) := decode_wordBytes _ word
  rw [decodeTableWord, h]

/-- Settles O4: the words are the packets of their formats, whose decoding is known for every operand. -/
theorem specWordsDecode : Obligations.SpecWordsDecode :=
  ⟨decodeTableWord_cmd 0, decodeTableWord_cmd 1, decodeTableWord_cmd 2, decodeTableWord_cmd 3,
    decodeTableWord_cmd 0x11, decode_writePacket _ 0x014 4 1000, decode_readPacket _ 0x004 4, rfl⟩

/-! ### The agents' moves (30_encoding.md R84, R90) -/

theorem State.fetchEngine_of_busy {s : State} (h : s.busy = true) : ∃ i, s.fetchEngine = some i := by
  by_contra hnone
  have hidle := s.fetchEngine_none (Option.eq_none_iff_forall_not_mem.mpr fun i hi => hnone ⟨i, hi⟩)
  exact absurd (h.symm.trans hidle) (by decide)

/-- Settles O8: the fetch finds a step, and the phase's code says which. -/
theorem busyPhaseSelectsItsEngineStep : Obligations.BusyPhaseSelectsItsEngineStep := by
  intro s hbusy
  obtain ⟨i, hi⟩ := State.fetchEngine_of_busy hbusy
  have selects {p : Phase} {j : Instr} (hj : decodeSeq p.code = .ok j) (hp : s.phase = p) : i = j :=
    Option.some.inj (hi.symm.trans (State.fetchEngine_of_decodeSeq (hp ▸ hj)))
  refine ⟨i, fun j => ?_, selects rfl, selects rfl, selects rfl, selects rfl, selects rfl, selects rfl,
    fun rest hev => ?_⟩
  · rw [hi, Option.some.injEq, eq_comm]
  · rw [step_of_engine hev]
    exact engineMove_of_fetchEngine hi

/-- A packet of a host transaction is executed at once, and what was scheduled stays. -/
theorem State.transact_of_decode {s : State} {packet : List Byte} {i : Instr}
    (hdec : decode s.pwSize packet = .ok i) (hf : i.format ≠ .seq) : s.transact packet = exec i s := by
  rw [State.transact, step_of_host rfl]
  exact hostMove_of_decodeHost (decodeHost_eq_ok_iff.mpr ⟨hdec, hf⟩)

theorem format_decodeWrite (pw : PwSize) (off : BitVec 12) (size : BitVec 8) (data : Word) :
    (decodeWrite pw off size data).format = .busW := by
  simp only [decodeWrite]
  split_ifs <;> rfl

/-- No instruction stops the block (60_exceptions.md R250, R252): only the commands, PW writes and reads branch. -/
theorem exec_answers (i : Instr) (s : State) : ∃ t, exec i s = .next t := by
  have start : ∃ t, execStart s = .next t := by unfold execStart; split_ifs <;> exact ⟨_, rfl⟩
  have abort : ∃ t, execAbort s = .next t := by unfold execAbort; split_ifs <;> exact ⟨_, rfl⟩
  have clear : ∃ t, execClear s = .next t := by unfold execClear; split_ifs <;> exact ⟨_, rfl⟩
  cases i with
  | start => exact start
  | abort => exact abort
  | clear => exact clear
  | busWCmd data =>
    simp only [exec, execBusWCmd]
    split_ifs
    exacts [⟨_, rfl⟩, start, abort, clear, ⟨_, rfl⟩]
  | busWPw w data =>
    simp only [exec, execBusWPw]
    split_ifs <;> exact ⟨_, rfl⟩
  | busR off size => exact ⟨_, exec_busR off size s⟩
  | _ => exact ⟨_, rfl⟩

theorem windowOffset_base_add (off : BitVec 12) : windowOffset (Config.base + off.toNat) = some off := by
  have hoff := off.isLt
  rw [windowOffset, if_pos (by omega), Nat.add_sub_cancel_left, BitVec.ofNat_toNat, BitVec.setWidth_eq]

/-- Settles O44: a host line's packet decodes to its transaction, which answers. -/
theorem hostLinesAreBusTransactions : Obligations.HostLinesAreBusTransactions := by
  refine ⟨fun s off data => ?_, fun s off h4 => ?_, windowOffset_base_add⟩
  · have hline := State.transact_of_decode (decode_writePacket s.pwSize off 4 data)
      (by rw [format_decodeWrite]; decide)
    obtain ⟨t, ht⟩ := exec_answers (decodeWrite s.pwSize off 4 data) s
    exact ⟨t, by rw [hostWrite, hline, ht], ht⟩
  · have hline := State.transact_of_decode (decode_readPacket s.pwSize off 4) nofun
    have hread : exec (.busR off 4) s = .next { s with response := .data (s.readOffset off.toNat) } := by
      rw [exec_busR, accessOK, decide_eq_true h4]
      rfl
    exact ⟨_, by rw [hostRead, hline, hread], hread⟩

end Sys2Proof.Machine
end

section
/-! SUPPORT. The statements about the digest engine (40_digest_engine.md): the padding's zero bytes, the length of a
digest, and the split of a message into appends. -/

namespace Sys2Proof.Machine

/-! ### The padding (40_digest_engine.md R109, R113) -/

section ZeroPad
variable {w : Nat} (c : Sha2 w)

theorem Sha2.zeroPad_lt (hw : 0 < shaBlockBytes w) (n : Nat) : c.zeroPad n < shaBlockBytes w := Nat.mod_lt _ hw

/-- With `r = n % block`: the length field still fits the last block (`r + 1 + lenBytes ≤ block`), or the padding runs
through a further block. -/
theorem Sha2.add_zeroPad_mod (hl : 0 < c.lenBytes) (hb : c.lenBytes < shaBlockBytes w) (n : Nat) :
    (n + 1 + c.zeroPad n) % shaBlockBytes w = shaBlockBytes w - c.lenBytes := by
  rw [Sha2.zeroPad]
  generalize shaBlockBytes w = B at *
  have hr : n % B < B := Nat.mod_lt n (by omega)
  have hn : B * (n / B) + n % B = n := Nat.div_add_mod n B
  have hlt : B - c.lenBytes < B := by omega
  by_cases hfit : n % B + 1 + c.lenBytes ≤ B
  · have hsum : n + 1 + (B - c.lenBytes - 1 - n % B) = B - c.lenBytes + B * (n / B) := by omega
    have hpad : (2 * B - c.lenBytes - 1 - n % B) % B = B - c.lenBytes - 1 - n % B := by
      rw [show 2 * B - c.lenBytes - 1 - n % B = (B - c.lenBytes - 1 - n % B) + B by omega, Nat.add_mod_right]
      exact Nat.mod_eq_of_lt (by omega)
    rw [hpad, hsum, Nat.add_mul_mod_self_left, Nat.mod_eq_of_lt hlt]
  · have hsum : n + 1 + (2 * B - c.lenBytes - 1 - n % B) = B - c.lenBytes + B + B * (n / B) := by omega
    have hpad : (2 * B - c.lenBytes - 1 - n % B) % B = 2 * B - c.lenBytes - 1 - n % B :=
      Nat.mod_eq_of_lt (by omega)
    rw [hpad, hsum, Nat.add_mul_mod_self_left, Nat.add_mod_right, Nat.mod_eq_of_lt hlt]

/-- Two numbers of zero bytes below the block size cannot leave the same remainder. -/
theorem Sha2.add_mod_ne_of_lt_zeroPad (hl : 0 < c.lenBytes) (hb : c.lenBytes < shaBlockBytes w) {n k : Nat}
    (hk : k < c.zeroPad n) : (n + 1 + k) % shaBlockBytes w ≠ shaBlockBytes w - c.lenBytes := fun heq => by
  have hlt : c.zeroPad n < shaBlockBytes w := c.zeroPad_lt (by omega) n
  have hmod : k ≡ c.zeroPad n [MOD shaBlockBytes w] :=
    Nat.ModEq.add_left_cancel' (n + 1) (heq.trans (c.add_zeroPad_mod hl hb n).symm)
  exact hk.ne (hmod.eq_of_lt_of_lt (hk.trans hlt) hlt)

end ZeroPad

/-- Settles O34: both parameter sets have a length field shorter than their block. -/
theorem paddingIsTheLeastThatFillsBlocks : Obligations.PaddingIsTheLeastThatFillsBlocks := by
  intro n
  have h256 : 0 < sha256Params.lenBytes ∧ sha256Params.lenBytes < shaBlockBytes 32 := by decide
  have h512 : 0 < sha512Params.lenBytes ∧ sha512Params.lenBytes < shaBlockBytes 64 := by decide
  exact ⟨sha256Params.add_zeroPad_mod h256.1 h256.2 n, fun _ => sha256Params.add_mod_ne_of_lt_zeroPad h256.1 h256.2,
    sha512Params.add_zeroPad_mod h512.1 h512.2 n, fun _ => sha512Params.add_mod_ne_of_lt_zeroPad h512.1 h512.2⟩

/-! ### The length of a digest (40_digest_engine.md R100, R111, R115) -/

@[simp] theorem length_beBytes (n v : Nat) : (beBytes n v).length = n := by simp [beBytes]

/-- Compression adds the eight working variables to the words of the chain value, so eight words stay eight. -/
theorem Sha2.length_compress {w : Nat} (c : Sha2 w) {h : List (BitVec w)} (hh : h.length = 8) (block : List Byte) :
    (c.compress h block).length = 8 := by
  rw [Sha2.compress, List.length_zipWith, hh]
  rfl

theorem Sha2.length_foldl_compress {w : Nat} (c : Sha2 w) (blocks : List (List Byte)) {h : List (BitVec w)}
    (hh : h.length = 8) : (blocks.foldl c.compress h).length = 8 := by
  induction blocks generalizing h with
  | nil => exact hh
  | cons block blocks ih => exact ih (c.length_compress hh block)

/-- Eight words are put out, whatever the number of blocks. -/
theorem Sha2.length_hash {w : Nat} (c : Sha2 w) (h0 : c.h0.length = 8) (m : List Byte) :
    (c.hash m).length = 8 * (w / 8) := by
  simp only [Sha2.hash, List.length_flatMap, length_beBytes, List.map_const', List.sum_replicate,
    c.length_foldl_compress _ h0, smul_eq_mul]

theorem length_sha256 (m : List Byte) : (sha256 m).length = 32 := by
  rw [sha256]
  split_ifs
  · exact sha256Params.length_hash rfl m
  · exact Vector.length_toList

theorem length_sha512 (m : List Byte) : (sha512 m).length = 64 := by
  rw [sha512]
  split_ifs
  · exact sha512Params.length_hash rfl m
  · exact Vector.length_toList

/-- Settles O33. -/
theorem digestHasTheVariantsLength : Obligations.DigestHasTheVariantsLength :=
  fun m => ⟨rfl, rfl, length_sha256 m, length_sha512 m⟩

/-! ### The split of a message into appends (40_digest_engine.md R103-R106) -/

/-- Settles O32: appending is concatenation to the accumulator, which `reset()` empties. -/
theorem appendsStreamIntoOneMessage : Obligations.AppendsStreamIntoOneMessage := State.hashParts_eq

end Sys2Proof.Machine
end

section
/-! SUPPORT. The statements about the Byte Sequence Builder (41_byte_sequence.md): the expansion repeats its seed, the
alternating sequence follows the bits of its counter, and the lengths of both. -/

namespace Sys2Proof.Machine

/-! ### Expansion to a length (41_byte_sequence.md R120, R121) -/

theorem repeatBytes_succ (k : Nat) (x : List Byte) : repeatBytes (k + 1) x = x ++ repeatBytes k x := by
  simp [repeatBytes, List.replicate_succ]

@[simp] theorem length_repeatBytes (k : Nat) (x : List Byte) : (repeatBytes k x).length = k * x.length := by
  simp [repeatBytes]

theorem getElem?_repeatBytes {k i : Nat} {x : List Byte} (hi : i < k * x.length) :
    (repeatBytes k x)[i]? = x[i % x.length]? := by
  induction k generalizing i with
  | zero => omega
  | succ k ih =>
    rw [repeatBytes_succ]
    by_cases hfirst : i < x.length
    · rw [List.getElem?_append_left hfirst, Nat.mod_eq_of_lt hfirst]
    · have hle : x.length ≤ i := Nat.le_of_not_lt hfirst
      rw [List.getElem?_append_right hle, ih (by rw [Nat.succ_mul] at hi; omega), Nat.mod_eq_sub_mod hle]

/-- `ceil(n / b)` copies of `b` bytes cover `n` bytes. -/
theorem le_ceilDiv_mul (n : Nat) {b : Nat} (hb : 0 < b) : n ≤ ceilDiv n b * b := by
  have hcover : n ≤ b * (n ⌈/⌉ b) := le_smul_ceilDiv hb
  rwa [Nat.ceilDiv_eq_add_pred_div, Nat.mul_comm] at hcover

@[simp] theorem expandToLength_zero (seed : List Byte) : expandToLength seed 0 = [] := rfl

/-- The case `n = 0` is no exception: no byte of the copies is taken. -/
theorem expandToLength_eq_take (seed : List Byte) (n : Nat) :
    expandToLength seed n = (repeatBytes (ceilDiv n seed.length) seed).take n := by
  rw [expandToLength]
  split_ifs with hn
  · rw [hn, List.take_zero]
  · rfl

theorem length_expandToLength {seed : List Byte} (hseed : 0 < seed.length) (n : Nat) :
    (expandToLength seed n).length = n := by
  rw [expandToLength_eq_take, List.length_take, length_repeatBytes, Nat.min_eq_left (le_ceilDiv_mul n hseed)]

theorem getElem?_expandToLength {seed : List Byte} (hseed : 0 < seed.length) {n k : Nat} (hk : k < n) :
    (expandToLength seed n)[k]? = seed[k % seed.length]? := by
  rw [expandToLength_eq_take, List.getElem?_take_of_lt hk,
    getElem?_repeatBytes (hk.trans_le (le_ceilDiv_mul n hseed))]

/-- Settles O35. -/
theorem expandRepeatsTheSeedToLength : Obligations.ExpandRepeatsTheSeedToLength :=
  ⟨expandToLength_zero, fun seed n hseed => ⟨length_expandToLength hseed n, fun k hk => by
    rw [List.getD_eq_getElem?_getD, List.getD_eq_getElem?_getD, getElem?_expandToLength hseed hk]⟩⟩

/-! ### The loops over the bits of a counter (41_byte_sequence.md R124) -/

section HalvingLoop
variable {α : Type} {loop : Nat → Nat → α} {z : α} {turn : Nat → α → α}
  (hstop : ∀ n, loop 0 n = z)
  (hturn : ∀ fuel n, loop (fuel + 1) n = if n = 0 then z else turn n (loop fuel (n / 2)))
include hstop hturn

/-- A loop that halves its counter until 0 takes at most as many turns as the counter's value: more fuel is unused. -/
theorem halvingLoop_eq_of_le {n fuel : Nat} (hn : n ≤ fuel) : loop fuel n = loop n n := by
  induction n using Nat.strong_induction_on generalizing fuel with
  | _ n ih =>
    cases fuel with
    | zero => rw [Nat.le_zero.mp hn]
    | succ fuel =>
      cases n with
      | zero => rw [hturn, if_pos rfl, hstop]
      | succ m =>
        have hhalf : (m + 1) / 2 ≤ m := by omega
        have hlt : (m + 1) / 2 < m + 1 := Nat.lt_succ_of_le hhalf
        rw [hturn, hturn, ih _ hlt hhalf, ih _ hlt (hhalf.trans (Nat.le_of_succ_le_succ hn))]

theorem halvingLoop_of_pos {n : Nat} (hn : 0 < n) : loop n n = turn n (loop (n / 2) (n / 2)) := by
  obtain ⟨m, rfl⟩ := Nat.exists_eq_add_one_of_ne_zero hn.ne'
  rw [hturn, if_neg m.succ_ne_zero, halvingLoop_eq_of_le hstop hturn (by omega : (m + 1) / 2 ≤ m)]

end HalvingLoop

@[simp] theorem altSeq_zero (x y : List Byte) : altSeq 0 x y = [] := rfl

theorem altSeq_of_pos {n : Nat} (hn : 0 < n) (x y : List Byte) :
    altSeq n x y = selectByParity (n % 2 = 1) x y ++ altSeq (n / 2) x y :=
  halvingLoop_of_pos (turn := fun n rest => selectByParity (n % 2 = 1) x y ++ rest) (fun _ => rfl) (fun _ _ => rfl) hn

theorem altSeq_one (x y : List Byte) : altSeq 1 x y = x := List.append_nil x

/-- The top bit is 1, so the set-bit choice stands last. -/
theorem suffix_altSeq {n : Nat} (hn : 0 < n) (x y : List Byte) : x <:+ altSeq n x y := by
  induction n using Nat.div2Induction with
  | ind n ih =>
    rcases Nat.eq_or_lt_of_le (Nat.succ_le_of_lt hn) with rfl | hbits
    · rw [altSeq_one]
    · rw [altSeq_of_pos hn]
      exact (ih hn (by omega)).trans (List.suffix_append _ _)

/-- Settles O36. -/
theorem alternatingSequenceFollowsTheBits : Obligations.AlternatingSequenceFollowsTheBits :=
  fun x y => ⟨altSeq_zero x y, fun _ hn => ⟨altSeq_of_pos hn x y, (suffix_altSeq hn x y).imp fun _ => Eq.symm⟩⟩

/-! ### Lengths (41_byte_sequence.md R125) -/

theorem bitCounts_of_pos {n : Nat} (hn : 0 < n) :
    bitCounts n n = (popcount (n / 2) + n % 2, bitlen (n / 2) + 1) :=
  halvingLoop_of_pos (turn := fun n c => (c.1 + n % 2, c.2 + 1)) (fun _ => rfl) (fun _ _ => rfl) hn

theorem popcount_of_pos {n : Nat} (hn : 0 < n) : popcount n = popcount (n / 2) + n % 2 := by
  rw [popcount, bitCounts_of_pos hn]

theorem bitlen_of_pos {n : Nat} (hn : 0 < n) : bitlen n = bitlen (n / 2) + 1 := by
  rw [bitlen, bitCounts_of_pos hn]

theorem popcount_le_bitlen (n : Nat) : popcount n ≤ bitlen n := by
  induction n using Nat.div2Induction with
  | ind n ih =>
    rcases Nat.eq_zero_or_pos n with rfl | hn
    · exact Nat.le_refl 0
    · have hhalf := ih hn
      rw [popcount_of_pos hn, bitlen_of_pos hn]
      omega

/-- The number of 0 bits below the top 1 bit. -/
theorem bitlen_sub_popcount_of_pos {n : Nat} (hn : 0 < n) :
    bitlen n - popcount n = bitlen (n / 2) - popcount (n / 2) + (1 - n % 2) := by
  have hle := popcount_le_bitlen (n / 2)
  rw [popcount_of_pos hn, bitlen_of_pos hn]
  omega

theorem length_selectByParity (n : Nat) (x y : List Byte) :
    (selectByParity (n % 2 = 1) x y).length = n % 2 * x.length + (1 - n % 2) * y.length := by
  rcases Nat.mod_two_eq_zero_or_one n with hbit | hbit <;> simp [selectByParity, hbit]

theorem length_altSeq (n : Nat) (x y : List Byte) :
    (altSeq n x y).length = popcount n * x.length + (bitlen n - popcount n) * y.length := by
  induction n using Nat.div2Induction with
  | ind n ih =>
    rcases Nat.eq_zero_or_pos n with rfl | hn
    · simp [popcount, bitCounts, bitlen]
    · rw [altSeq_of_pos hn, List.length_append, length_selectByParity, ih hn, bitlen_sub_popcount_of_pos hn,
        popcount_of_pos hn]
      ring

/-- Settles O37. -/
theorem byteSequenceLengths : Obligations.ByteSequenceLengths :=
  ⟨fun _ n hseed => length_expandToLength hseed n, length_altSeq⟩

end Sys2Proof.Machine
end

section
/-! SUPPORT. The statement about the Core Algorithm: the round message by the residues of the round index (42_core_algorithm.md R135). -/

namespace Sys2Proof.Machine

/-- The residues modulo 3 and 7 drop a middle part; that modulo 2 only says which of digest and P' stands first. -/
theorem roundMessage_eq (i : Nat) (a p s : List Byte) :
    roundMessage i a p s =
      (if i % 2 = 1 then p else a) ++ (if i % 3 = 0 then [] else s) ++ (if i % 7 = 0 then [] else p) ++
        (if i % 2 = 1 then a else p) := by
  by_cases h3 : i % 3 = 0 <;> by_cases h7 : i % 7 = 0 <;> simp [roundMessage, roundParts, h3, h7]

theorem roundMessage_of_even {i : Nat} (h2 : i % 2 = 0) (a p s : List Byte) :
    roundMessage i a p s = a ++ (if i % 3 = 0 then [] else s) ++ (if i % 7 = 0 then [] else p) ++ p := by
  have hne : i % 2 ≠ 1 := by omega
  rw [roundMessage_eq, if_neg hne, if_neg hne]

theorem roundMessage_of_odd {i : Nat} (h2 : i % 2 = 1) (a p s : List Byte) :
    roundMessage i a p s = p ++ (if i % 3 = 0 then [] else s) ++ (if i % 7 = 0 then [] else p) ++ a := by
  rw [roundMessage_eq, if_pos h2, if_pos h2]

/-- Settles O38. -/
theorem roundMessageHasEightShapes : Obligations.RoundMessageHasEightShapes := by
  intro i a p s
  refine ⟨?_, ?_, ?_, ?_, ?_, ?_, ?_, ?_⟩ <;> intro h2 h3 h7
  · rw [roundMessage_of_even h2, if_pos h3, if_pos h7, List.append_nil, List.append_nil]
  · rw [roundMessage_of_even h2, if_pos h3, if_neg h7, List.append_nil]
  · rw [roundMessage_of_even h2, if_neg h3, if_pos h7, List.append_nil]
  · rw [roundMessage_of_even h2, if_neg h3, if_neg h7]
  · rw [roundMessage_of_odd h2, if_pos h3, if_pos h7, List.append_nil, List.append_nil]
  · rw [roundMessage_of_odd h2, if_pos h3, if_neg h7, List.append_nil]
  · rw [roundMessage_of_odd h2, if_neg h3, if_pos h7, List.append_nil]
  · rw [roundMessage_of_odd h2, if_neg h3, if_neg h7]

end Sys2Proof.Machine
end

section
/-! SUPPORT. The statements about the Encoder (43_encoder.md). A permutation table does two things that are proved apart:
its columns name the digest bytes in the table's order, and each row packs its bytes into base-64 digits. -/

namespace Sys2Proof.Machine

/-! ### The alphabet (43_encoder.md R150, R156) -/

theorem symbolIndex_symbol : ∀ i < 64, symbolIndex (symbol i) = some i := by decide

theorem symbol_of_symbolIndex : ∀ c : Byte, ∀ i ∈ symbolIndex c, i < 64 ∧ symbol i = c := by decide

theorem symbol_mem_alphabet {i : Nat} (hi : i < 64) : symbol i ∈ alphabet := by
  have hlen : i < alphabet.length := hi
  rw [symbol, List.getD_eq_getElem _ _ hlen]
  exact List.getElem_mem hlen

/-- A string all of whose bytes have an index is the string of the symbols of its indices. -/
theorem mapM_symbolIndex_eq_some_iff {t : List Byte} {is : List Nat} :
    t.mapM symbolIndex = some is ↔ t = is.map symbol ∧ ∀ i ∈ is, i < 64 := by
  induction t generalizing is with
  | nil => cases is <;> simp
  | cons c t ih =>
    constructor
    · intro h
      obtain ⟨i, hi, js, hjs, rfl⟩ : ∃ i, symbolIndex c = some i ∧ ∃ js, t.mapM symbolIndex = some js ∧ i :: js = is := by
        simpa [List.mapM_cons, Option.bind_eq_some_iff] using h
      obtain ⟨hlt, rfl⟩ := symbol_of_symbolIndex c i hi
      obtain ⟨rfl, hall⟩ := ih.mp hjs
      exact ⟨rfl, List.forall_mem_cons.mpr ⟨hlt, hall⟩⟩
    · rintro ⟨ht, hall⟩
      cases is with
      | nil => cases ht
      | cons i js =>
        obtain ⟨rfl, rfl⟩ := List.cons.inj ht
        obtain ⟨hlt, hall⟩ := List.forall_mem_cons.mp hall
        simp [List.mapM_cons, symbolIndex_symbol i hlt, ih.mpr ⟨rfl, hall⟩]

theorem map_symbol_inj {is js : List Nat} (his : ∀ i ∈ is, i < 64) (hjs : ∀ i ∈ js, i < 64) :
    is.map symbol = js.map symbol ↔ is = js := by
  refine ⟨fun h => ?_, congrArg _⟩
  have hm := mapM_symbolIndex_eq_some_iff.mpr ⟨rfl, his⟩
  rw [mapM_symbolIndex_eq_some_iff.mpr ⟨h, hjs⟩] at hm
  exact (Option.some.inj hm).symm

/-! ### The digits of a group (43_encoder.md R151, R157) -/

/-- The `n` low base-64 digits of a number, least significant first. -/
def groupDigits : Nat → Nat → List Nat
  | 0, _ => []
  | n + 1, w => w % 64 :: groupDigits n (w / 64)

@[simp] theorem length_groupDigits (n w : Nat) : (groupDigits n w).length = n := by
  induction n generalizing w with
  | zero => rfl
  | succ n ih => simp [groupDigits, ih]

theorem groupDigits_lt {n w i : Nat} (h : i ∈ groupDigits n w) : i < 64 := by
  induction n generalizing w with
  | zero => cases h
  | succ n ih =>
    obtain rfl | h := List.mem_cons.mp h
    · exact Nat.mod_lt _ (by decide)
    · exact ih h

theorem groupValue_groupDigits (n w : Nat) : groupValue (groupDigits n w) = w % 64 ^ n := by
  induction n generalizing w with
  | zero => simp [groupDigits, groupValue, Nat.mod_one]
  | succ n ih => rw [groupDigits, groupValue, ih, Nat.pow_succ', Nat.mod_mul]

theorem groupDigits_groupValue {is : List Nat} (h : ∀ i ∈ is, i < 64) :
    groupDigits is.length (groupValue is) = is := by
  induction is with
  | nil => rfl
  | cons i is ih =>
    obtain ⟨hi, his⟩ := List.forall_mem_cons.mp h
    have hmod : (i + 64 * groupValue is) % 64 = i := by omega
    have hdiv : (i + 64 * groupValue is) / 64 = groupValue is := by omega
    rw [List.length_cons, groupValue, groupDigits, hmod, hdiv, ih his]

/-- A group's value is bounded by its last digit. -/
theorem groupValue_lt_iff {m b : Nat} {is : List Nat} (hlen : is.length = m + 1) (h : ∀ i ∈ is, i < 64) :
    groupValue is < 64 ^ m * b ↔ is.getD m 0 < b := by
  induction m generalizing is with
  | zero =>
    obtain ⟨i, rfl⟩ := List.length_eq_one_iff.mp hlen
    simp [groupValue]
  | succ m ih =>
    cases is with
    | nil => cases hlen
    | cons i is =>
      obtain ⟨hi, his⟩ := List.forall_mem_cons.mp h
      rw [List.getD_cons_succ, ← ih (Nat.succ.inj hlen) his, groupValue, Nat.pow_succ', Nat.mul_assoc]
      omega

theorem b64_eq (b2 b1 b0 : Byte) (n : Nat) : b64 b2 b1 b0 n = (groupDigits n (leNat [b0, b1, b2])).map symbol := by
  have hdigits : ∀ w, (List.range n).map (fun k => symbol (w / 2 ^ (6 * k) % 64)) = (groupDigits n w).map symbol := by
    induction n with
    | zero => exact fun _ => rfl
    | succ n ih =>
      intro w
      have hshift : ∀ k, w / 2 ^ (6 * (k + 1)) = w / 64 / 2 ^ (6 * k) := fun k => by
        rw [Nat.mul_succ, Nat.pow_add, Nat.mul_comm, Nat.div_div_eq_div_mul]
      simp [groupDigits, List.range_succ_eq_map, ← ih, hshift]
  rw [b64, hdigits]
  congr 2
  simp only [leNat]
  omega

/-! ### The digest bytes a list of slots names (43_encoder.md R152, R153) -/

/-- The bytes at the slots, in the slots' order. -/
def readSlots (d : List Byte) (ks : List Nat) : List Byte := ks.map (d.getD · 0)

/-- The bytes put into the slots, in order. -/
def writeSlots : List Nat → List Byte → List Byte → List Byte
  | k :: ks, b :: bs, d => writeSlots ks bs (d.set k b)
  | _, _, d => d

@[simp] theorem writeSlots_nil (bs d : List Byte) : writeSlots [] bs d = d := by simp [writeSlots]

@[simp] theorem length_readSlots (d : List Byte) (ks : List Nat) : (readSlots d ks).length = ks.length :=
  List.length_map _

@[simp] theorem length_writeSlots (ks : List Nat) (bs d : List Byte) : (writeSlots ks bs d).length = d.length := by
  induction ks, bs, d using writeSlots.induct with
  | case1 d k ks b bs ih => simpa [writeSlots] using ih
  | case2 ks bs d h => rw [writeSlots]; exact h

theorem readSlots_append (d : List Byte) (ks js : List Nat) :
    readSlots d (ks ++ js) = readSlots d ks ++ readSlots d js := List.map_append

theorem writeSlots_append {ks : List Nat} {bs : List Byte} (h : bs.length = ks.length) (js : List Nat)
    (cs d : List Byte) : writeSlots (ks ++ js) (bs ++ cs) d = writeSlots js cs (writeSlots ks bs d) := by
  induction ks generalizing bs d with
  | nil => rw [List.eq_nil_of_length_eq_zero h]; simp
  | cons k ks ih =>
    cases bs with
    | nil => cases h
    | cons b bs => exact ih (Nat.succ.inj h) (d.set k b)

theorem getElem?_writeSlots_of_notMem {ks : List Nat} {i : Nat} (h : i ∉ ks) (bs d : List Byte) :
    (writeSlots ks bs d)[i]? = d[i]? := by
  induction ks generalizing bs d with
  | nil => simp
  | cons k ks ih =>
    have ⟨hne, hks⟩ := not_or.mp (mt List.mem_cons.mpr h)
    cases bs with
    | nil => rfl
    | cons b bs => rw [writeSlots, ih hks, List.getElem?_set_ne (Ne.symm hne)]

/-- Distinct slots hold what was put into them. -/
theorem readSlots_writeSlots {ks : List Nat} {bs d : List Byte} (hlen : bs.length = ks.length) (hnd : ks.Nodup)
    (hlt : ∀ k ∈ ks, k < d.length) : readSlots (writeSlots ks bs d) ks = bs := by
  induction ks generalizing bs d with
  | nil => exact (List.eq_nil_of_length_eq_zero hlen).symm
  | cons k ks ih =>
    cases bs with
    | nil => cases hlen
    | cons b bs =>
      obtain ⟨hk, hnd⟩ := List.nodup_cons.mp hnd
      obtain ⟨hkd, hlt⟩ := List.forall_mem_cons.mp hlt
      have hrest := ih (d := d.set k b) (Nat.succ.inj hlen) hnd (by simpa using hlt)
      have hhead : (writeSlots ks bs (d.set k b)).getD k 0 = b := by
        rw [List.getD_eq_getElem?_getD, getElem?_writeSlots_of_notMem hk, List.getElem?_set_self hkd, Option.getD_some]
      exact congrArg₂ List.cons hhead hrest

/-- Copying slots of one list into another of its length gives the first list there and leaves the other elsewhere. -/
theorem getElem?_writeSlots_readSlots (ks : List Nat) {d e : List Byte} (hlen : e.length = d.length) (i : Nat) :
    (writeSlots ks (readSlots d ks) e)[i]? = if i ∈ ks then d[i]? else e[i]? := by
  induction ks generalizing e with
  | nil => simp
  | cons k ks ih =>
    rw [readSlots, List.map_cons, writeSlots]
    refine (ih (by simpa using hlen)).trans ?_
    by_cases hi : i ∈ ks
    · simp [hi]
    · rcases eq_or_ne i k with rfl | hne
      · by_cases hd : i < d.length <;> simp [hi, hd, hlen]
      · simp [hi, hne, Ne.symm hne]

/-- Slots that reach every byte copy the whole list. -/
theorem writeSlots_readSlots {ks : List Nat} {d e : List Byte} (hlen : e.length = d.length)
    (hall : ∀ i < d.length, i ∈ ks) : writeSlots ks (readSlots d ks) e = d := by
  refine List.ext_getElem? fun i => ?_
  rw [getElem?_writeSlots_readSlots ks hlen]
  split_ifs with hi
  · rfl
  · have hd : d.length ≤ i := Nat.le_of_not_lt fun hlt => hi (hall i hlt)
    rw [List.getElem?_eq_none hd, List.getElem?_eq_none (hlen ▸ hd)]

/-! ### One row of a table -/

namespace GroupRow

/-- The digest indices of a row, from the least significant byte on. -/
def slots (r : GroupRow) : List Nat := [r.b0, r.b1, r.b2].reduceOption

@[simp] theorem slots_three (i j k n : Nat) : slots ⟨some i, some j, some k, n⟩ = [k, j, i] := rfl
@[simp] theorem slots_two (j k n : Nat) : slots ⟨none, some j, some k, n⟩ = [k, j] := rfl
@[simp] theorem slots_one (k n : Nat) : slots ⟨none, none, some k, n⟩ = [k] := rfl

/-- The rows of the tables: three bytes in four symbols, two in three, or one in two. -/
def packed : GroupRow → Bool
  | ⟨some _, some _, some _, 4⟩ | ⟨none, some _, some _, 3⟩ | ⟨none, none, some _, 2⟩ => true
  | _ => false

theorem packed_cases {r : GroupRow} (h : r.packed) :
    (∃ i j k, r = ⟨some i, some j, some k, 4⟩) ∨ (∃ j k, r = ⟨none, some j, some k, 3⟩) ∨
      ∃ k, r = ⟨none, none, some k, 2⟩ := by
  unfold packed at h
  split at h <;> simp_all

variable {r : GroupRow} (h : r.packed)
include h

theorem n_eq_of_packed : r.n = r.slots.length + 1 := by
  obtain ⟨_, _, _, rfl⟩ | ⟨_, _, rfl⟩ | ⟨_, rfl⟩ := packed_cases h <;> rfl

/-- The bytes of a row fit its symbols. -/
theorem pow_slots_le_of_packed : 256 ^ r.slots.length ≤ 64 ^ r.n := by
  obtain ⟨_, _, _, rfl⟩ | ⟨_, _, rfl⟩ | ⟨_, rfl⟩ := packed_cases h <;> simp

/-- A row packs the bytes of its slots. -/
theorem encode_eq_of_packed (d : List Byte) :
    r.encode d = (groupDigits r.n (leNat (readSlots d r.slots))).map symbol := by
  obtain ⟨_, _, _, rfl⟩ | ⟨_, _, rfl⟩ | ⟨_, rfl⟩ := packed_cases h <;>
    simp [encode, column, b64_eq, readSlots, leNat]

/-- A row unpacks into the bytes of its slots. -/
theorem decodeInto_eq_of_packed (w : Nat) (d : List Byte) :
    r.decodeInto w d = writeSlots r.slots (leBytes r.slots.length w) d := by
  obtain ⟨_, _, _, rfl⟩ | ⟨_, _, rfl⟩ | ⟨_, rfl⟩ := packed_cases h <;>
    simp [decodeInto, putColumn, writeSlots, leBytes, Nat.div_div_eq_div_mul]

end GroupRow

/-! ### The rows of a table -/

/-- The digest indices of the rows, in the order in which they are packed. -/
def rowSlots (rows : List GroupRow) : List Nat := rows.flatMap GroupRow.slots

/-- The symbol indices of the rows' encoding. -/
def packRows (rows : List GroupRow) (d : List Byte) : List Nat :=
  rows.flatMap fun r => groupDigits r.n (leNat (readSlots d r.slots))

/-- The bytes the rows' groups of symbol indices carry, in the order of `rowSlots`. -/
def unpackRows : List GroupRow → List Nat → List Byte
  | [], _ => []
  | r :: rs, is => leBytes r.slots.length (groupValue (is.take r.n)) ++ unpackRows rs (is.drop r.n)

/-- The unused top bits of every group are zero (R157): the last of the `m + 1` symbols of `m` bytes is below `4 ^ m`. -/
def Canonical : List GroupRow → List Nat → Prop
  | [], _ => True
  | r :: rs, is => is.getD r.slots.length 0 < 4 ^ r.slots.length ∧ Canonical rs (is.drop r.n)

@[simp] theorem rowSlots_cons (r : GroupRow) (rs : List GroupRow) : rowSlots (r :: rs) = r.slots ++ rowSlots rs := rfl

@[simp] theorem packRows_cons (r : GroupRow) (rs : List GroupRow) (d : List Byte) :
    packRows (r :: rs) d = groupDigits r.n (leNat (readSlots d r.slots)) ++ packRows rs d := rfl

theorem packRows_lt {rows : List GroupRow} {d : List Byte} : ∀ i ∈ packRows rows d, i < 64 := by
  intro i hi
  obtain ⟨r, -, hr⟩ := List.mem_flatMap.mp hi
  exact groupDigits_lt hr

@[simp] theorem length_packRows (rows : List GroupRow) (d : List Byte) :
    (packRows rows d).length = (rows.map GroupRow.n).sum := by
  simp [packRows, List.length_flatMap]

@[simp] theorem length_unpackRows (rows : List GroupRow) (is : List Nat) :
    (unpackRows rows is).length = (rowSlots rows).length := by
  induction rows generalizing is with
  | nil => rfl
  | cons r rs ih => simp [unpackRows, ih]

theorem flatMap_encode {rows : List GroupRow} (h : ∀ r ∈ rows, r.packed) (d : List Byte) :
    rows.flatMap (GroupRow.encode d) = (packRows rows d).map symbol := by
  rw [packRows, List.map_flatMap]
  exact List.flatMap_congr fun r hr => GroupRow.encode_eq_of_packed (h r hr) d

theorem decodeRows_eq {rows : List GroupRow} (h : ∀ r ∈ rows, r.packed) (is : List Nat) (d : List Byte) :
    decodeRows rows is d = writeSlots (rowSlots rows) (unpackRows rows is) d := by
  induction rows generalizing is d with
  | nil => exact (writeSlots_nil _ d).symm
  | cons r rs ih =>
    obtain ⟨hr, hrs⟩ := List.forall_mem_cons.mp h
    rw [decodeRows, ih hrs, GroupRow.decodeInto_eq_of_packed hr, unpackRows, rowSlots_cons,
      writeSlots_append (length_leBytes _ _)]

/-- Unpacking what was packed gives the digest bytes in the order of the table. -/
theorem unpackRows_packRows {rows : List GroupRow} (h : ∀ r ∈ rows, r.packed) (d : List Byte) :
    unpackRows rows (packRows rows d) = readSlots d (rowSlots rows) := by
  induction rows with
  | nil => rfl
  | cons r rs ih =>
    obtain ⟨hr, hrs⟩ := List.forall_mem_cons.mp h
    have hfit : leNat (readSlots d r.slots) < 64 ^ r.n :=
      (leNat_lt _).trans_le (by simpa using GroupRow.pow_slots_le_of_packed hr)
    have hbytes := leBytes_leNat (readSlots d r.slots)
    rw [length_readSlots] at hbytes
    rw [packRows_cons, unpackRows, List.take_left' (length_groupDigits _ _),
      List.drop_left' (length_groupDigits _ _), groupValue_groupDigits, Nat.mod_eq_of_lt hfit, hbytes,
      rowSlots_cons, readSlots_append, ih hrs]

/-- The bytes of one group pack into the group again exactly when its last symbol has no unused bit set. -/
theorem groupDigits_leNat_leBytes_eq_iff {r : GroupRow} (h : r.packed) {is : List Nat} (hlen : is.length = r.n)
    (hlt : ∀ i ∈ is, i < 64) :
    groupDigits r.n (leNat (leBytes r.slots.length (groupValue is))) = is ↔
      is.getD r.slots.length 0 < 4 ^ r.slots.length := by
  rw [← groupValue_lt_iff (hlen.trans (GroupRow.n_eq_of_packed h)) hlt, ← Nat.mul_pow, leNat_leBytes]
  constructor
  · intro heq
    rw [← heq, groupValue_groupDigits]
    exact (Nat.mod_le _ _).trans_lt (Nat.mod_lt _ (by positivity))
  · intro hfit
    rw [Nat.mod_eq_of_lt hfit, ← hlen, groupDigits_groupValue hlt]

/-- Packing the bytes that were unpacked gives the indices back exactly when they are canonical. -/
theorem packRows_eq_iff {rows : List GroupRow} (h : ∀ r ∈ rows, r.packed) {is : List Nat}
    (hlen : is.length = (rows.map GroupRow.n).sum) (hlt : ∀ i ∈ is, i < 64) {d : List Byte}
    (hd : readSlots d (rowSlots rows) = unpackRows rows is) : packRows rows d = is ↔ Canonical rows is := by
  induction rows generalizing is with
  | nil => simp [packRows, Canonical, List.eq_nil_of_length_eq_zero hlen]
  | cons r rs ih =>
    obtain ⟨hr, hrs⟩ := List.forall_mem_cons.mp h
    rw [List.map_cons, List.sum_cons] at hlen
    have htake : (is.take r.n).length = r.n := by simp [hlen]
    have hdrop : (is.drop r.n).length = (rs.map GroupRow.n).sum := by simp [hlen]
    have hlast : (is.take r.n).getD r.slots.length 0 = is.getD r.slots.length 0 := by
      have hn := GroupRow.n_eq_of_packed hr
      rw [List.getD_eq_getElem?_getD, List.getElem?_take_of_lt (by omega), List.getD_eq_getElem?_getD]
    obtain ⟨hgroup, hrest⟩ : readSlots d r.slots = leBytes r.slots.length (groupValue (is.take r.n)) ∧
        readSlots d (rowSlots rs) = unpackRows rs (is.drop r.n) := by
      rw [rowSlots_cons, readSlots_append, unpackRows] at hd
      exact List.append_inj hd (by simp)
    calc packRows (r :: rs) d = is
      _ ↔ groupDigits r.n (leNat (readSlots d r.slots)) ++ packRows rs d = is.take r.n ++ is.drop r.n := by
          rw [List.take_append_drop, packRows_cons]
      _ ↔ groupDigits r.n (leNat (readSlots d r.slots)) = is.take r.n ∧ packRows rs d = is.drop r.n :=
          List.append_eq_append_iff_of_size_eq_left (by rw [length_groupDigits, htake])
      _ ↔ Canonical (r :: rs) is := by
          rw [hgroup, groupDigits_leNat_leBytes_eq_iff hr htake fun i hi => hlt i (List.mem_of_mem_take hi), hlast,
            ih hrs hdrop (fun i hi => hlt i (List.mem_of_mem_drop hi)) hrest, Canonical]

theorem canonical_packRows {rows : List GroupRow} (h : ∀ r ∈ rows, r.packed) (d : List Byte) :
    Canonical rows (packRows rows d) :=
  (packRows_eq_iff h (length_packRows rows d) packRows_lt (unpackRows_packRows h d).symm).mp rfl

/-! ### The tables of the two variants (43_encoder.md R152, R153) -/

/-- `rows` is the table of variant `v`: it names each byte of the digest once, and the symbol at index `last` alone
can have unused bits, those from `bound` on. -/
structure IsTable (v : Word) (rows : List GroupRow) (last bound : Nat) : Prop where
  tableOf_eq : tableOf v = some rows
  encodeDigest_eq_flatMap : ∀ d, encodeDigest v d = rows.flatMap (GroupRow.encode d)
  packed : ∀ r ∈ rows, r.packed
  slots_perm : (rowSlots rows).Perm (List.range (digestLen v))
  sum_n : (rows.map GroupRow.n).sum = encodedLen v
  last_lt : last < encodedLen v
  canonical_iff : ∀ is : List Nat, (∀ i ∈ is, i < 64) → (Canonical rows is ↔ is.getD last 0 < bound)

theorem getD_getElem?_lt {b : Nat} (hb : 0 < b) {is : List Nat} (h : ∀ i ∈ is, i < b) (k : Nat) :
    is[k]?.getD 0 < b := by
  cases hk : is[k]? with
  | none => exact hb
  | some i => exact h i (List.mem_of_getElem? hk)

theorem isTable256 : IsTable 5 table256 42 16 where
  tableOf_eq := rfl
  encodeDigest_eq_flatMap _ := rfl
  packed := by decide
  slots_perm := by decide
  sum_n := rfl
  last_lt := by decide
  canonical_iff is h := by simp [table256, Canonical, getD_getElem?_lt (by decide) h]

theorem isTable512 : IsTable 6 table512 85 4 where
  tableOf_eq := rfl
  encodeDigest_eq_flatMap _ := rfl
  packed := by decide
  slots_perm := by decide
  sum_n := rfl
  last_lt := by decide
  canonical_iff is h := by simp [table512, Canonical, getD_getElem?_lt (by decide) h]

theorem symbolIndex_getD_map_symbol {is : List Nat} (h : ∀ i ∈ is, i < 64) {k : Nat} (hk : k < is.length) :
    symbolIndex ((is.map symbol).getD k 0) = some (is.getD k 0) := by
  rw [List.getD_eq_getElem _ _ (by simpa using hk), List.getElem_map, List.getD_eq_getElem _ _ hk]
  exact symbolIndex_symbol _ (h _ (List.getElem_mem hk))

namespace IsTable

variable {v : Word} {rows : List GroupRow} {last bound : Nat} (h : IsTable v rows last bound)
include h

theorem encodeDigest_eq (d : List Byte) : encodeDigest v d = (packRows rows d).map symbol :=
  (h.encodeDigest_eq_flatMap d).trans (flatMap_encode h.packed d)

theorem mem_slots_iff {k : Nat} : k ∈ rowSlots rows ↔ k < digestLen v :=
  h.slots_perm.mem_iff.trans List.mem_range

theorem mem_alphabet_of_mem_encodeDigest (d : List Byte) : ∀ c ∈ encodeDigest v d, c ∈ alphabet := by
  intro c hc
  rw [h.encodeDigest_eq] at hc
  obtain ⟨i, hi, rfl⟩ := List.mem_map.mp hc
  exact symbol_mem_alphabet (packRows_lt i hi)

/-- The last symbol of an encoding has no unused bit set (R154). -/
theorem exists_symbolIndex_last_encodeDigest (d : List Byte) :
    ∃ i, symbolIndex ((encodeDigest v d).getD last 0) = some i ∧ i < bound := by
  have hlast : last < (packRows rows d).length := by
    rw [length_packRows, h.sum_n]
    exact h.last_lt
  rw [h.encodeDigest_eq, symbolIndex_getD_map_symbol packRows_lt hlast]
  exact ⟨_, rfl, (h.canonical_iff _ packRows_lt).mp (canonical_packRows h.packed d)⟩

/-- What decodes is a string of as many symbols as the variant has, and it decodes to their groups' bytes (R157). -/
theorem decodeDigest_eq_some_iff {t d : List Byte} :
    decodeDigest v t = some d ↔ ∃ is : List Nat, is.length = encodedLen v ∧ (∀ i ∈ is, i < 64) ∧ t = is.map symbol ∧
      d = writeSlots (rowSlots rows) (unpackRows rows is) (List.replicate (digestLen v) 0) := by
  constructor
  · intro ht
    unfold decodeDigest at ht
    split_ifs at ht with hlen
    split at ht
    next is rs his hrs =>
      obtain ⟨rfl, hall⟩ := mapM_symbolIndex_eq_some_iff.mp his
      obtain rfl : rows = rs := Option.some.inj (h.tableOf_eq.symm.trans hrs)
      refine ⟨is, by simpa using hlen, hall, rfl, ?_⟩
      rw [← decodeRows_eq h.packed, Option.some.inj ht]
    next => cases ht
  · rintro ⟨is, hlen, hall, rfl, rfl⟩
    have his := mapM_symbolIndex_eq_some_iff.mpr ⟨rfl, hall⟩
    simp [decodeDigest, hlen, his, h.tableOf_eq, decodeRows_eq h.packed]

/-- R158 (a) -/
theorem decodeDigest_encodeDigest {d : List Byte} (hd : d.length = digestLen v) :
    decodeDigest v (encodeDigest v d) = some d := by
  refine h.decodeDigest_eq_some_iff.mpr
    ⟨packRows rows d, by rw [length_packRows, h.sum_n], packRows_lt, h.encodeDigest_eq d, ?_⟩
  rw [unpackRows_packRows h.packed, writeSlots_readSlots (by simp [hd])]
  exact fun i hi => h.mem_slots_iff.mpr (hd ▸ hi)

/-- R158 (b) -/
theorem encodeDigest_injective {d e : List Byte} (hd : d.length = digestLen v) (he : e.length = digestLen v)
    (heq : encodeDigest v d = encodeDigest v e) : d = e := by
  have hdec := h.decodeDigest_encodeDigest hd
  rw [heq, h.decodeDigest_encodeDigest he] at hdec
  exact (Option.some.inj hdec).symm

/-- R158 (c) -/
theorem encodeDigest_eq_iff {t d : List Byte} (ht : decodeDigest v t = some d) :
    encodeDigest v d = t ↔ ∃ i, symbolIndex (t.getD last 0) = some i ∧ i < bound := by
  obtain ⟨is, hlen, hall, rfl, hd⟩ := h.decodeDigest_eq_some_iff.mp ht
  have hread : readSlots d (rowSlots rows) = unpackRows rows is := by
    rw [hd]
    refine readSlots_writeSlots (length_unpackRows rows is) (h.slots_perm.nodup_iff.mpr List.nodup_range) fun k hk => ?_
    simpa using h.mem_slots_iff.mp hk
  rw [h.encodeDigest_eq, map_symbol_inj packRows_lt hall,
    packRows_eq_iff h.packed (hlen.trans h.sum_n.symm) hall hread, h.canonical_iff is hall,
    symbolIndex_getD_map_symbol hall (hlen ▸ h.last_lt)]
  simp

end IsTable

/-- Settles O39. -/
theorem encodingHasTheVariantsLength : Obligations.EncodingHasTheVariantsLength := by
  intro d
  refine ⟨length_encodeDigest 5 d, length_encodeDigest 6 d, isTable256.mem_alphabet_of_mem_encodeDigest d,
    isTable512.mem_alphabet_of_mem_encodeDigest d, ?_, ?_⟩
  · obtain ⟨i, hi, hlt⟩ := isTable256.exists_symbolIndex_last_encodeDigest d
    exact ⟨i, hi, Nat.le_of_lt_succ hlt⟩
  · obtain ⟨i, hi, hlt⟩ := isTable512.exists_symbolIndex_last_encodeDigest d
    exact ⟨i, hi, Nat.le_of_lt_succ hlt⟩

/-- Settles O40. -/
theorem encoderLaws : Obligations.EncoderLaws :=
  ⟨fun _ => isTable256.decodeDigest_encodeDigest, fun _ => isTable512.decodeDigest_encodeDigest,
    fun _ _ => isTable256.encodeDigest_injective, fun _ _ => isTable512.encodeDigest_injective,
    fun _ _ => isTable256.encodeDigest_eq_iff, fun _ _ => isTable512.encodeDigest_eq_iff⟩

end Sys2Proof.Machine
end

section
/-! SUPPORT. The statements about the host's codec (44_hash_string_codec.md): decimal numbers by their last digit, and the
strings that Parse accepts. -/

namespace Sys2Proof.Machine

/-! ### Decimal digits (R171, R173) -/

/-- The ASCII digit of a number below ten. -/
def digitByte (d : Nat) : Byte := BitVec.ofNat 8 (0x30 + d)

theorem toNat_digitByte {d : Nat} (hd : d < 10) : (digitByte d).toNat = 0x30 + d := by
  rw [digitByte, BitVec.toNat_ofNat, Nat.mod_eq_of_lt (by omega)]

theorem isDigit_digitByte {d : Nat} (hd : d < 10) : isDigit (digitByte d) = true := by
  simp only [isDigit, toNat_digitByte hd, Bool.and_eq_true, decide_eq_true_eq]
  omega

theorem digitByte_eq_zero_iff {d : Nat} (hd : d < 10) : digitByte d = 0x30 ↔ d = 0 := by
  rw [← BitVec.toNat_inj, toNat_digitByte hd]
  simp

theorem decValue_append_digitByte (ds : List Byte) {d : Nat} (hd : d < 10) :
    decValue (ds ++ [digitByte d]) = 10 * decValue ds + d := by
  simp [decValue, toNat_digitByte hd]

/-- What stands behind the digits stays behind them. -/
theorem decGo_eq_append (fuel n : Nat) (acc : List Byte) : decGo fuel n acc = decGo fuel n [] ++ acc := by
  induction fuel generalizing n acc with
  | zero => rfl
  | succ fuel ih =>
    simp only [decGo]
    split
    · rfl
    · rw [ih, ih _ [_], List.append_assoc, List.singleton_append]

/-- Fuel above the number is as good as any other. -/
theorem decGo_fuel_irrel {n fuel fuel' : Nat} (h : n < fuel) (h' : n < fuel') (acc : List Byte) :
    decGo fuel n acc = decGo fuel' n acc := by
  induction fuel generalizing n fuel' acc with
  | zero => omega
  | succ fuel ih =>
    cases fuel' with
    | zero => omega
    | succ fuel' =>
      simp only [decGo]
      split
      · rfl
      · exact ih (by omega) (by omega) _

theorem dec_of_lt {n : Nat} (hn : n < 10) : dec n = [digitByte n] := by
  simp [dec, decGo, digitByte, Nat.div_eq_of_lt hn, Nat.mod_eq_of_lt hn]

theorem dec_of_ge {n : Nat} (hn : 10 ≤ n) : dec n = dec (n / 10) ++ [digitByte (n % 10)] := by
  have hq : n / 10 ≠ 0 := by omega
  rw [dec, decGo, if_neg hq]
  rw [decGo_eq_append, decGo_fuel_irrel (by omega) (Nat.lt_succ_self (n / 10))]
  rfl

/-- Induction on `dec` by the last digit. -/
theorem dec_induction {P : Nat → List Byte → Prop} (one : ∀ d < 10, P d [digitByte d])
    (snoc : ∀ n ds d, 0 < n → d < 10 → P n ds → P (10 * n + d) (ds ++ [digitByte d])) (n : Nat) : P n (dec n) := by
  induction n using Nat.strong_induction_on with
  | _ n ih =>
    by_cases hn : n < 10
    · rw [dec_of_lt hn]
      exact one n hn
    · have hstep := snoc (n / 10) (dec (n / 10)) (n % 10) (by omega) (by omega) (ih (n / 10) (by omega))
      rwa [Nat.div_add_mod, ← dec_of_ge (by omega)] at hstep

theorem decValue_dec (n : Nat) : decValue (dec n) = n := by
  refine dec_induction (P := fun n ds => decValue ds = n) (fun d hd => ?_) (fun n ds d _ hd ih => ?_) n
  · simpa [decValue] using decValue_append_digitByte [] hd
  · rw [decValue_append_digitByte ds hd, ih]

theorem isDigit_of_mem_dec (n : Nat) : ∀ c ∈ dec n, isDigit c = true := by
  refine dec_induction (P := fun _ ds => ∀ c ∈ ds, isDigit c = true) (fun d hd => ?_) (fun _ ds d _ hd ih => ?_) n
  · simpa using isDigit_digitByte hd
  · exact List.forall_mem_append.mpr ⟨ih, by simpa using isDigit_digitByte hd⟩

theorem dec_ne_nil (n : Nat) : dec n ≠ [] :=
  dec_induction (P := fun _ ds => ds ≠ []) (fun _ _ => List.cons_ne_nil _ _)
    (fun _ _ _ _ _ _ => List.append_ne_nil_of_right_ne_nil _ (List.cons_ne_nil _ _)) n

/-- Only zero has a first digit 0. -/
theorem eq_zero_of_head?_dec {n : Nat} : (dec n).head? = some 0x30 → n = 0 := by
  refine (dec_induction (P := fun n ds => ds ≠ [] ∧ (ds.head? = some 0x30 → n = 0)) (fun d hd => ?_)
    (fun n ds d hn _ ih => ?_) n).2
  · simpa using (digitByte_eq_zero_iff hd).mp
  · obtain ⟨hne, hhead⟩ := ih
    refine ⟨by simp, fun h => ?_⟩
    rw [List.head?_append_of_ne_nil _ hne] at h
    have hzero := hhead h
    omega

/-- Settles O41, by induction on the last digit. -/
theorem decimalRenderingIsCanonical : Obligations.DecimalRenderingIsCanonical := by
  intro n
  refine ⟨decValue_dec n, isDigit_of_mem_dec n, dec_ne_nil n, fun h => ?_⟩
  rw [eq_zero_of_head?_dec h]
  rfl

/-! ### The parts of a hash string (R174-R178) -/

/-- `splitDollar` cuts at the first `$`. -/
theorem splitDollar_eq_some_iff {cs s t : List Byte} :
    splitDollar cs = some (s, t) ↔ dollar ∉ s ∧ cs = s ++ dollar :: t := by
  induction cs generalizing s with
  | nil => simp [splitDollar]
  | cons c cs ih =>
    cases s with
    | nil => by_cases hc : c = dollar <;> simp [splitDollar, hc]
    | cons b s =>
      by_cases hc : c = dollar
      · simpa [splitDollar, hc] using fun hne _ heq => absurd heq hne
      · have hb : c = b → dollar ≠ b := fun heq => heq ▸ Ne.symm hc
        simpa [splitDollar, hc, ih] using by tauto

/-- Only 5 and 6 are identifiers, written as Format writes them (R175). -/
theorem parseId_eq_ok_iff {id : List Byte} {v : Word} :
    parseId id = .ok v ↔ (v = 5 ∨ v = 6) ∧ id = dec v.toNat := by
  unfold parseId
  constructor
  · split_ifs with hid hid' <;> intro h <;> cases h
    · exact ⟨.inl rfl, hid⟩
    · exact ⟨.inr rfl, hid'⟩
  · rintro ⟨rfl | rfl, rfl⟩ <;> rfl

/-- 1000..999999999 (R176) -/
def legalRounds (r : Nat) : Prop := 1000 ≤ r ∧ r ≤ 999999999

/-- 1 to 16 legal bytes (R177) -/
def legalSalt (s : List Byte) : Prop := 1 ≤ s.length ∧ s.length ≤ 16 ∧ ∀ c ∈ s, legalSaltByte c

/-- The rounds fields that R176 reads as `r`: none for the default, or digits of value `r`. Format writes one of them. -/
inductive RoundsField : Nat → List Byte → Prop
  | omitted : RoundsField Config.roundsDefault []
  | written {ds : List Byte} (hne : ds ≠ []) (hdigit : ∀ c ∈ ds, isDigit c = true) :
    RoundsField (decValue ds) (roundsPrefix ++ ds ++ [dollar])

theorem dollar_notMem_of_isDigit {ds : List Byte} (h : ∀ c ∈ ds, isDigit c = true) : dollar ∉ ds :=
  fun hmem => absurd (h dollar hmem) (by decide)

theorem not_legalSaltByte_dollar : ¬ legalSaltByte dollar := fun h => absurd ((isSaltChar_iff _).mpr h) (by decide)

/-- The `=` of `rounds=` is no salt character, so a salt is never taken for a rounds field (R176). -/
theorem not_roundsPrefix_prefix_of_legalSalt {s : List Byte} (hs : legalSalt s) (t : List Byte) :
    ¬ roundsPrefix <+: s ++ dollar :: t := by
  intro hpre
  obtain ⟨-, -, hchars⟩ := hs
  have hsalt : s ++ [dollar] <+: s ++ dollar :: t := ⟨t, by simp⟩
  rcases List.prefix_or_prefix_of_prefix hpre hsalt with h | h
  · rcases List.mem_append.mp (h.subset (by decide : (0x3d : Byte) ∈ roundsPrefix)) with hmem | hmem
    · exact absurd ((isSaltChar_iff _).mpr (hchars _ hmem)) (by decide)
    · exact absurd hmem (by decide)
  · exact absurd (h.subset (List.mem_append_right s (List.mem_singleton_self dollar))) (by decide)

theorem parseRounds_of_not_prefix {rest : List Byte} (h : ¬ roundsPrefix <+: rest) :
    parseRounds rest = .ok (Config.roundsDefault, rest) :=
  if_neg fun htake => h (List.prefix_iff_eq_take.mpr htake.symm)

theorem parseRounds_prefix_append_eq_ok_iff {body rest' : List Byte} {r : Nat} :
    parseRounds (roundsPrefix ++ body) = .ok (r, rest') ↔
      ∃ ds, ds ≠ [] ∧ (∀ c ∈ ds, isDigit c = true) ∧ decValue ds = r ∧ legalRounds r ∧ body = ds ++ dollar :: rest' := by
  have htake : (roundsPrefix ++ body).take 7 = roundsPrefix := rfl
  have hdrop : (roundsPrefix ++ body).drop 7 = body := rfl
  rw [parseRounds, if_pos htake, hdrop]
  constructor
  · intro h
    split at h
    · cases h
    next ds t hsplit =>
      obtain ⟨-, rfl⟩ := splitDollar_eq_some_iff.mp hsplit
      split_ifs at h with hbad hrange
      cases h
      simp only [not_or, Bool.not_eq_false, List.all_eq_true] at hbad
      simp only [not_or, Nat.not_lt] at hrange
      obtain ⟨hne, hdigit⟩ := hbad
      exact ⟨ds, hne, hdigit, rfl, hrange, rfl⟩
  · rintro ⟨ds, hne, hdigit, rfl, ⟨hmin, hmax⟩, rfl⟩
    rw [splitDollar_eq_some_iff.mpr ⟨dollar_notMem_of_isDigit hdigit, rfl⟩]
    have hall : ds.all isDigit = true := List.all_eq_true.mpr hdigit
    simp [hne, hall, hmin, hmax]

theorem parseSalt_eq_ok_iff {rest s t : List Byte} :
    parseSalt rest = .ok (s, t) ↔ legalSalt s ∧ rest = s ++ dollar :: t := by
  unfold parseSalt
  constructor
  · intro h
    split at h
    · cases h
    next s' t' hsplit =>
      obtain ⟨-, rfl⟩ := splitDollar_eq_some_iff.mp hsplit
      split_ifs at h with hbad
      cases h
      simp only [not_or, Nat.not_lt, Bool.not_eq_false, List.all_eq_true, isSaltChar_iff] at hbad
      exact ⟨hbad, rfl⟩
  · rintro ⟨⟨hmin, hmax, hchars⟩, rfl⟩
    rw [splitDollar_eq_some_iff.mpr ⟨fun h => not_legalSaltByte_dollar (hchars _ h), rfl⟩]
    have hall : s.all isSaltChar = true := by simpa [List.all_eq_true, isSaltChar_iff] using hchars
    simp [hall, hmax, Nat.ne_of_gt hmin]

theorem parseField_eq_ok_iff {v : Word} {t t' : List Byte} :
    parseField v t = .ok t' ↔ t = t' ∧ ∃ d, decodeDigest v t = some d := by
  unfold parseField
  cases decodeDigest v t <;> simp

theorem length_of_decodeDigest {v : Word} {t d : List Byte} (h : decodeDigest v t = some d) :
    t.length = encodedLen v := by
  unfold decodeDigest at h
  split_ifs at h with hlen
  exact not_not.mp hlen

/-! ### Parse as a whole (R174) -/

/-- The tuples that R172 formats. -/
structure ParsedHash.Legal (h : ParsedHash) : Prop where
  variant : h.variant = 5 ∨ h.variant = 6
  rounds : legalRounds h.rounds
  salt : legalSalt h.salt
  field : ∃ d, decodeDigest h.variant h.field = some d

theorem parseRounds_of_roundsField {r : Nat} {f s : List Byte} (hf : RoundsField r f) (hr : legalRounds r)
    (hs : legalSalt s) (t : List Byte) :
    parseRounds (f ++ s ++ dollar :: t) = .ok (r, s ++ dollar :: t) := by
  cases hf with
  | omitted => exact parseRounds_of_not_prefix (not_roundsPrefix_prefix_of_legalSalt hs t)
  | @written ds hne hdigit =>
    simp only [List.append_assoc]
    exact parseRounds_prefix_append_eq_ok_iff.mpr ⟨ds, hne, hdigit, rfl, hr, by simp⟩

theorem roundsField_of_parseRounds {r : Nat} {rest rest' : List Byte} (h : parseRounds rest = .ok (r, rest')) :
    legalRounds r ∧ ∃ f, RoundsField r f ∧ rest = f ++ rest' := by
  by_cases hpre : roundsPrefix <+: rest
  · obtain ⟨body, rfl⟩ := hpre
    obtain ⟨ds, hne, hdigit, rfl, hr, rfl⟩ := parseRounds_prefix_append_eq_ok_iff.mp h
    exact ⟨hr, _, .written hne hdigit, by simp⟩
  · rw [parseRounds_of_not_prefix hpre] at h
    cases h
    exact ⟨by unfold legalRounds; decide, [], .omitted, rfl⟩

theorem parseTail_eq_ok_iff {v : Word} {rest : List Byte} {h : ParsedHash} :
    parseTail v rest = .ok h ↔ v = h.variant ∧ ∃ rest', parseRounds rest = .ok (h.rounds, rest') ∧
      parseSalt rest' = .ok (h.salt, h.field) ∧ parseField v h.field = .ok h.field := by
  unfold parseTail
  constructor
  · intro hp
    split at hp
    · cases hp
    next r rest' hrounds =>
      split at hp
      · cases hp
      next s t hsalt =>
        split at hp
        · cases hp
        next t' hfield =>
          cases hp
          obtain ⟨rfl, -⟩ := parseField_eq_ok_iff.mp hfield
          exact ⟨rfl, rest', hrounds, hsalt, hfield⟩
  · rintro ⟨rfl, rest', hrounds, hsalt, hfield⟩
    simp only [hrounds, hsalt, hfield]

theorem parseHash_eq_ok_iff_parseTail {e : List Byte} {h : ParsedHash} :
    parseHash e = .ok h ↔ (h.variant = 5 ∨ h.variant = 6) ∧ ∃ rest,
      e = dollar :: (dec h.variant.toNat ++ dollar :: rest) ∧ parseTail h.variant rest = .ok h := by
  constructor
  · intro hp
    cases e with
    | nil => cases hp
    | cons c cs =>
      simp only [parseHash] at hp
      split_ifs at hp with hc
      split at hp
      · cases hp
      next id rest hsplit =>
        split at hp
        · cases hp
        next v hid =>
          obtain ⟨rfl, -⟩ := parseTail_eq_ok_iff.mp hp
          obtain ⟨hv, rfl⟩ := parseId_eq_ok_iff.mp hid
          obtain ⟨-, rfl⟩ := splitDollar_eq_some_iff.mp hsplit
          exact ⟨hv, rest, by rw [not_not.mp hc], hp⟩
  · rintro ⟨hv, rest, rfl, hp⟩
    have hsplit := splitDollar_eq_some_iff (t := rest).mpr
      ⟨dollar_notMem_of_isDigit (isDigit_of_mem_dec h.variant.toNat), rfl⟩
    simp [parseHash, hsplit, parseId_eq_ok_iff.mpr ⟨hv, rfl⟩, hp]

/-- Parse accepts exactly the strings that Format writes of a legal tuple, but for the spelling of the rounds field. -/
theorem parseHash_eq_ok_iff {e : List Byte} {h : ParsedHash} :
    parseHash e = .ok h ↔ h.Legal ∧ ∃ f, RoundsField h.rounds f ∧
      e = [dollar] ++ dec h.variant.toNat ++ [dollar] ++ f ++ h.salt ++ [dollar] ++ h.field := by
  constructor
  · intro hp
    obtain ⟨hv, rest, rfl, htail⟩ := parseHash_eq_ok_iff_parseTail.mp hp
    obtain ⟨-, rest', hrounds, hsalt, hfield⟩ := parseTail_eq_ok_iff.mp htail
    obtain ⟨hr, f, hf, rfl⟩ := roundsField_of_parseRounds hrounds
    obtain ⟨hs, rfl⟩ := parseSalt_eq_ok_iff.mp hsalt
    obtain ⟨-, hd⟩ := parseField_eq_ok_iff.mp hfield
    exact ⟨⟨hv, hr, hs, hd⟩, f, hf, by simp⟩
  · rintro ⟨⟨hv, hr, hs, hd⟩, f, hf, rfl⟩
    refine parseHash_eq_ok_iff_parseTail.mpr ⟨hv, f ++ h.salt ++ dollar :: h.field, by simp, ?_⟩
    exact parseTail_eq_ok_iff.mpr ⟨rfl, _, parseRounds_of_roundsField hf hr hs h.field,
      parseSalt_eq_ok_iff.mpr ⟨hs, rfl⟩, parseField_eq_ok_iff.mpr ⟨rfl, hd⟩⟩

theorem roundsField_format (r : Nat) :
    RoundsField r (if r ≠ Config.roundsDefault then roundsPrefix ++ dec r ++ [dollar] else []) := by
  split
  · have hw := RoundsField.written (dec_ne_nil r) (isDigit_of_mem_dec r)
    rwa [decValue_dec] at hw
  next hdef =>
    rw [not_not.mp hdef]
    exact .omitted

/-- Settles O42. -/
theorem parseInvertsFormat : Obligations.ParseInvertsFormat :=
  fun _ hv hmin hmax hlen hlen' hchars hd =>
    parseHash_eq_ok_iff.mpr ⟨⟨hv, ⟨hmin, hmax⟩, ⟨hlen, hlen', hchars⟩, hd⟩, _, roundsField_format _, rfl⟩

/-- Settles O43. -/
theorem parsedHashIsLegal : Obligations.ParsedHashIsLegal := by
  intro e h hp
  obtain ⟨⟨hv, ⟨hmin, hmax⟩, ⟨hlen, hlen', hchars⟩, d, hd⟩, -⟩ := parseHash_eq_ok_iff.mp hp
  exact ⟨hv, hmin, hmax, hlen, hlen', hchars, length_of_decodeDigest hd, d, hd⟩

end Sys2Proof.Machine
end

section
/-! SUPPORT. The statements about the bus transactions and the commands (45_commands.md): what each command, write and
read answers, which check START reports, and that no event but reset changes an input while BUSY. -/

namespace Sys2Proof.Machine

/-! ### NOP, RESERVED and the CMD decode (45_commands.md R206, R207, R214) -/

/-- A write to CMD is the command of its data (R206). -/
theorem exec_busWCmd (data : Word) (s : State) : exec (.busWCmd data) s = exec (decodeCmd data) s := by
  simp only [exec, execBusWCmd, decodeCmd]
  split_ifs <;> rfl

/-- Settles O9. -/
theorem nopChangesNothing : Obligations.NopChangesNothing := ⟨rfl, fun _ => rfl⟩

/-- Settles O10: a word above 3 is none of the four defined ones. -/
theorem reservedWordSetsCmderrOnly : Obligations.ReservedWordSetsCmderrOnly :=
  ⟨fun _ => decodeCmd_of_three_lt, fun _ _ => rfl⟩

/-- Settles O16: what a write to CMD answers is what the command of its data answers. -/
theorem cmdWriteExecutesItsCommand : Obligations.CmdWriteExecutesItsCommand := by
  intro data s
  obtain ⟨t, ht⟩ := exec_answers (.busWCmd data) s
  have runs {i : Instr} (hi : decodeCmd data = i) : exec i s = .next t := by rw [← hi, ← exec_busWCmd, ht]
  refine ⟨t, ht, ?_, ?_, ?_, ?_, fun h => runs (decodeCmd_of_three_lt h)⟩ <;> (rintro rfl; exact runs rfl)

/-! ### STATUS after a command (10_state.md R25) -/

/-- With no sticky bit set, STATUS shows the phase and the interrupt level alone. -/
theorem State.status_of_not_sticky {s : State} {p : Phase} {e : Bool} (hp : s.phase = p) (he : s.ie = e)
    (hc : s.cmderr = false) (hw : s.werr = false) :
    s.status = { State.reset with phase := p, ie := e }.status := by
  rw [State.status, State.irq, State.busy, hp, he, hc, hw]
  rfl

/-! ### START (45_commands.md R208-R211) -/

theorem exec_start_of_busy {s : State} (hb : s.busy = true) :
    exec .start s = .next { s with cmderr := true, response := .accepted } := if_pos hb

theorem exec_start_of_legal {s : State} (hb : s.busy = false) (hl : s.Legal) :
    exec .start s =
      .next { s.wipeOutputs with errcode := .none, phase := .digestB, response := .accepted } := by
  rw [exec, execStart, hb, if_neg Bool.false_ne_true, if_pos (s.legal_iff.mp hl)]
  rfl

theorem exec_start_of_not_legal {s : State} (hb : s.busy = false) (hl : ¬ s.Legal) :
    exec .start s = .next { s.wipeOutputs.raiseError s.startError with response := .accepted } := by
  rw [exec, execStart, hb, if_neg Bool.false_ne_true, if_neg (mt s.legal_iff.mpr hl)]
  rfl

/-- Settles O11. -/
theorem startWhileBusySetsCmderrOnly : Obligations.StartWhileBusySetsCmderrOnly :=
  ⟨rfl, fun _ => exec_start_of_busy⟩

section FirstFailingCheck

variable {s : State}

theorem State.startError_of_not_saltLenLegal (h : ¬ s.saltLenLegal) : s.startError = .invalidSalt := by
  rw [← s.saltLenOK_iff] at h
  simp [State.startError, h]

theorem State.startError_of_not_saltCharsLegal (hlen : s.saltLenLegal) (h : ¬ s.saltCharsLegal) :
    s.startError = .invalidSalt := by
  rw [← s.saltCharOK_iff hlen] at h
  simp [State.startError, h]

theorem State.startError_of_not_roundsLegal (hlen : s.saltLenLegal) (hchars : s.saltCharsLegal) (h : ¬ s.roundsLegal) :
    s.startError = .invalidRounds := by
  rw [← s.roundsOK_iff] at h
  simp [State.startError, s.saltLenOK_iff.mpr hlen, (s.saltCharOK_iff hlen).mpr hchars, h]

theorem State.startError_of_not_variantLegal (hlen : s.saltLenLegal) (hchars : s.saltCharsLegal)
    (hrounds : s.roundsLegal) (h : ¬ s.variantLegal) : s.startError = .unsupportedVariant := by
  rw [← s.variantOK_iff] at h
  simp [State.startError, s.saltLenOK_iff.mpr hlen, (s.saltCharOK_iff hlen).mpr hchars, s.roundsOK_iff.mpr hrounds, h]

theorem State.startError_of_not_passwordFits (hlen : s.saltLenLegal) (hchars : s.saltCharsLegal)
    (hrounds : s.roundsLegal) (hvariant : s.variantLegal) (h : ¬ s.passwordFits) : s.startError = .passwordTooLong := by
  rw [← s.pwOK_iff] at h
  simp [State.startError, s.saltLenOK_iff.mpr hlen, (s.saltCharOK_iff hlen).mpr hchars, s.roundsOK_iff.mpr hrounds,
    s.variantOK_iff.mpr hvariant, h]

end FirstFailingCheck

theorem State.read_wipeOutputs_of_not_output (s : State) (a : Nat) (h : outputAddr a = false) :
    s.wipeOutputs.mem.read a = s.mem.read a := by
  rw [s.read_wipeOutputs, h, if_neg Bool.false_ne_true]

/-- Settles O12: the first failing check is raised over the zeroed outputs. -/
theorem startReportsTheFirstFailingCheck : Obligations.StartReportsTheFirstFailingCheck := by
  intro s hb hl
  have errcode {e : ErrCode} (h : s.startError = e) :
      State.errcodeWord { s.wipeOutputs.raiseError s.startError with response := .accepted } =
        (0 : BitVec 28) ++ e.code := by rw [← h]; rfl
  refine ⟨_, exec_start_of_not_legal hb hl, fun h => errcode (State.startError_of_not_saltLenLegal h),
    fun h1 h => errcode (State.startError_of_not_saltCharsLegal h1 h),
    fun h1 h2 h => errcode (State.startError_of_not_roundsLegal h1 h2 h),
    fun h1 h2 h3 h => errcode (State.startError_of_not_variantLegal h1 h2 h3 h),
    fun h1 h2 h3 h4 h => errcode (State.startError_of_not_passwordFits h1 h2 h3 h4 h), s.read_wipeOutputs_of_output,
    s.read_wipeOutputs_of_not_output, rfl, fun hc hw => ?_⟩
  refine Eq.trans (State.status_of_not_sticky (p := .error) (e := s.ie) rfl rfl hc hw) ?_
  cases s.ie <;> rfl

/-- Settles O13: the run begins over the zeroed outputs. -/
theorem startWithLegalInputsBegins : Obligations.StartWithLegalInputsBegins := by
  intro s hb hl
  refine ⟨_, exec_start_of_legal hb hl, s.read_wipeOutputs_of_output, s.read_wipeOutputs_of_not_output, rfl, rfl,
    Bool.and_false _, fun hc hw => ?_⟩
  refine Eq.trans (State.status_of_not_sticky (p := .digestB) (e := s.ie) rfl rfl hc hw) ?_
  cases s.ie <;> rfl

/-! ### ABORT and CLEAR (45_commands.md R212, R213) -/

/-- Settles O14: ABORT branches on BUSY alone. -/
theorem abortEndsABusyRunOnly : Obligations.AbortEndsABusyRunOnly :=
  ⟨rfl, rfl, fun _ hb => if_pos hb, fun _ hb => if_neg (ne_true_of_eq_false hb)⟩

/-- Settles O15: CLEAR branches on BUSY alone, and the state it leaves has no sticky bit and is IDLE. -/
theorem clearWipesAllButInten : Obligations.ClearWipesAllButInten := by
  refine ⟨rfl, fun _ hb => if_pos hb, fun s hb => ⟨_, if_neg (ne_true_of_eq_false hb), rfl, ?_⟩⟩
  refine Eq.trans (State.status_of_not_sticky (p := .idle) (e := s.ie) rfl rfl rfl rfl) ?_
  cases s.ie <;> rfl

/-! ### Writes to INTEN (45_commands.md R204) -/

theorem exec_busWInten (data : Word) (s : State) :
    exec (.busWInten data) s = .next { s with ie := data.getLsbD 0, response := .accepted } := rfl

/-- INTEN reads as the enable bit, zero-extended (10_state.md R27). -/
theorem State.intenWord_eq (s : State) : s.intenWord = BitVec.setWidth 32 (BitVec.ofBool s.ie) := by
  cases h : s.ie <;> rw [State.intenWord, h] <;> rfl

theorem ofBool_getLsbD_zero {w : Nat} (x : BitVec w) : BitVec.ofBool (x.getLsbD 0) = BitVec.extractLsb' 0 1 x := by
  refine (extractLsb'_eq_of_getLsbD_eq x 0 1 _ fun i hi => ?_).symm
  obtain rfl : i = 0 := by omega
  simp

/-- Settles O18: bit 0 is stored, and the interrupt level follows it at once where the phase is DONE or ERROR. -/
theorem intenWriteStoresBitZero : Obligations.IntenWriteStoresBitZero := by
  intro data s
  refine ⟨_, exec_busWInten data s, rfl, ?_, fun hp hbit => ?_⟩
  · rw [State.intenWord_eq, ofBool_getLsbD_zero]
  · rw [State.irq, hbit]
    simpa using hp

/-! ### The bytes of a bus word (20_memory.md R62) -/

theorem getD_leBytes {n j : Nat} (hj : j < n) (v : Nat) : (leBytes n v).getD j 0 = BitVec.ofNat 8 (v / 256 ^ j) := by
  induction n generalizing j v with
  | zero => omega
  | succ n ih =>
    cases j with
    | zero => simp [leBytes]
    | succ j =>
      rw [leBytes, List.getD_cons_succ, ih (by omega), Nat.div_div_eq_div_mul, Nat.pow_succ']

/-- Byte `j` of a word is its bits [8j+7:8j]. -/
theorem getD_wordBytes {j : Nat} (hj : j < 4) (w : Word) :
    (wordBytes w).getD j 0 = BitVec.extractLsb' (8 * j) 8 w := by
  rw [wordBytes, getD_leBytes hj, BitVec.extractLsb', Nat.shiftRight_eq_div_pow, Nat.pow_mul]

/-- The word at an offset is the sum of its four bytes, each at its weight. -/
theorem Memory.toNat_word (m : Memory) (o : Nat) :
    (m.word o).toNat = (m.read o).toNat + (m.read (o + 1)).toNat * 2 ^ 8 + (m.read (o + 2)).toNat * 2 ^ 16 +
      (m.read (o + 3)).toNat * 2 ^ 24 := by
  have hlt := leNat_lt (m.bytes o 4)
  rw [Memory.length_bytes, show 256 ^ 4 = 2 ^ 32 from rfl] at hlt
  rw [Memory.word, bytesWord, BitVec.toNat_ofNat, Nat.mod_eq_of_lt hlt]
  have hbytes : m.bytes o 4 = [m.read o, m.read (o + 1), m.read (o + 2), m.read (o + 3)] := rfl
  simp only [hbytes, leNat]
  omega

/-! ### Writes to inputs (45_commands.md R201, R202) -/

theorem exec_busWInputReg (reg : InputReg) (data : Word) (s : State) :
    exec (.busWInputReg reg data) s = .next (s.writeInput (s.setInput reg data)) := rfl

theorem exec_busWSalt (w : BitVec 2) (data : Word) (s : State) :
    exec (.busWSalt w data) s = .next (s.writeInput (s.setWord (saltOffset w) data)) := rfl

theorem exec_busWPw_of_lt {w : BitVec 10} {s : State} (h : 4 * w.toNat < s.pwSize.bytes) (data : Word) :
    exec (.busWPw w data) s = .next (s.writeInput (s.setWord (pwOffset w) data)) :=
  if_pos (by simp only [PwSize.bytes] at h; omega)

theorem exec_busWPw_of_ge {w : BitVec 10} {s : State} (h : s.pwSize.bytes ≤ 4 * w.toNat) (data : Word) :
    exec (.busWPw w data) s = .next { s with response := .accepted } :=
  if_neg (by simp only [PwSize.bytes] at h; omega)

/-- A word stored in a buffer puts its four bytes at their offsets and leaves every other byte. -/
theorem State.read_setWord (s : State) (o : Nat) (data : Word) :
    (∀ j, j < 4 → (s.setWord o data).mem.read (o + j) = BitVec.extractLsb' (8 * j) 8 data) ∧
      ∀ a, ¬ (o ≤ a ∧ a < o + 4) → (s.setWord o data).mem.read a = s.mem.read a := by
  refine ⟨fun j hj => ?_, fun a ha => ?_⟩ <;> rw [State.setWord_mem, Memory.read_writeBytes, length_wordBytes]
  · rw [if_pos (by omega), Nat.add_sub_cancel_left, getD_wordBytes hj]
  · exact if_neg ha

/-- Settles O19: outside BUSY the data is stored, and a buffer takes it byte by byte. -/
theorem inputWritesAreStoredWhenNotBusy : Obligations.InputWritesAreStoredWhenNotBusy := by
  intro s data hb
  have reg (r : InputReg) : exec (.busWInputReg r data) s = .next ((s.setInput r data).respond .accepted) := by
    rw [exec_busWInputReg, s.writeInput_free _ hb]
  refine ⟨reg .variant, reg .rounds, reg .pwlen, reg .saltlen, fun w => ?_, fun w hw => ?_⟩
  · refine ⟨(s.setWord (saltOffset w) data).respond .accepted, ?_, rfl, s.read_setWord (saltOffset w) data⟩
    rw [exec_busWSalt, s.writeInput_free _ hb]
  · refine ⟨(s.setWord (pwOffset w) data).respond .accepted, ?_, rfl, s.read_setWord (pwOffset w) data⟩
    rw [exec_busWPw_of_lt hw, s.writeInput_free _ hb]

/-- Settles O20: while BUSY what would be stored does not matter. -/
theorem inputWritesAreDroppedWhileBusy : Obligations.InputWritesAreDroppedWhileBusy := by
  intro s data hb
  have dropped (stored : State) : s.writeInput stored = { s with werr := true, response := .accepted } :=
    s.writeInput_busy stored hb
  refine ⟨fun reg => ?_, fun w => ?_, fun w hw => ?_, exec_busWInten data s⟩
  · rw [exec_busWInputReg, dropped]
  · rw [exec_busWSalt, dropped]
  · rw [exec_busWPw_of_lt hw, dropped]

/-- Settles O21: the offsets listed are neither a writable register nor in SALT or PW. -/
theorem readOnlyAndReservedWritesAreIgnored : Obligations.ReadOnlyAndReservedWritesAreIgnored := by
  refine ⟨fun pw off data h4 ho => decodeWrite_ignored data (ignoredOffset_iff.mpr ⟨h4, ?_, ?_, ?_⟩),
    fun _ _ _ => rfl, fun w data s h => exec_busWPw_of_ge h data⟩
  · simp only [registerOffset]
    omega
  · omega
  · omega

/-! ### Reads (45_commands.md R205) -/

theorem exec_busR_of_aligned {off : BitVec 12} (h4 : off.toNat % 4 = 0) (s : State) :
    exec (.busR off 4) s = .next { s with response := .data (s.readOffset off.toNat) } := by
  rw [exec_busR, accessOK, decide_eq_true h4]
  rfl

/-- Past the registers a read returns a word of SALT, RAW or ENC, or 0. -/
theorem State.readOffset_of_not_register (s : State) {o : Nat} (h : 0x030 ≤ o) :
    s.readOffset o =
      if (0x040 ≤ o ∧ o < 0x050) ∨ (0x080 ≤ o ∧ o < 0x118) then s.mem.word o else 0 := by
  have hne (k : Nat) (hk : k < 0x030) : o ≠ k := by omega
  unfold State.readOffset
  iterate 12 rw [if_neg (hne _ (by decide))]
  simp only [Config.saltBase, Config.saltSize, Config.rawBase, Config.rawSize, Config.encBase, Config.encSize]
  by_cases hbuf : (0x040 ≤ o ∧ o < 0x050) ∨ (0x080 ≤ o ∧ o < 0x118)
  · rw [if_pos hbuf]
    split_ifs
    iterate 3 rfl
    omega
  · rw [if_neg hbuf, if_neg (by omega), if_neg (by omega), if_neg (by omega)]

theorem State.toNat_errcodeWord (s : State) : s.errcodeWord.toNat = s.errcode.code.toNat := by
  rw [State.errcodeWord, BitVec.toNat_append]
  simp

theorem State.toNat_intenWord (s : State) : s.intenWord.toNat = if s.ie then 1 else 0 := by
  cases h : s.ie <;> rw [State.intenWord, h] <;> rfl

theorem State.toNat_pwmaxWord (s : State) : s.pwmaxWord.toNat = s.pwSize.bytes := by
  have hsize := s.pwSize.isLt
  simp only [State.pwmaxWord, BitVec.toNat_ofNat, PwSize.bytes]
  omega

/-- Settles O22: the registers are read off the map, and past them the buffers. -/
theorem readReturnsTheMappedWord : Obligations.ReadReturnsTheMappedWord := by
  obtain ⟨-, -, hbad⟩ := badAccessGetsABusErrorOnly
  refine ⟨fun s off h4 => ⟨s.readOffset off.toNat, exec_busR_of_aligned h4 s, ?_⟩, hbad⟩
  have hreg {o : Nat} (h : off.toNat = o) : s.readOffset off.toNat = s.readOffset o := congrArg _ h
  refine ⟨hreg, hreg, fun h => ?_, fun h => ?_, hreg, hreg, hreg, hreg, hreg, hreg, hreg, fun h => ?_, fun h => ?_,
    fun h => ?_⟩
  · rw [hreg h]
    exact s.toNat_errcodeWord
  · rw [hreg h]
    exact s.toNat_intenWord
  · rw [hreg h]
    exact s.toNat_pwmaxWord
  · rw [s.readOffset_of_not_register (by omega), if_pos h, Memory.toNat_word]
  · rw [s.readOffset_of_not_register (by omega), if_neg (by omega)]

/-! ### The inputs while BUSY (45_commands.md R202, 70_reset_and_hazards.md R284) -/

/-- What no host transaction changes while BUSY: the inputs, the outputs, PWMAX and the events to come. -/
theorem HostCase.frame_of_busy {s t : State} {i : Instr} (hc : HostCase s i t) (hb : s.busy = true) :
    t = { s with
      phase := t.phase, cmderr := t.cmderr, werr := t.werr, errcode := t.errcode, ie := t.ie
      db := t.db, da := t.da, pp := t.pp, sp := t.sp, acc := t.acc, response := t.response } := by
  cases hc with
  | same | cmderr | abort | werr | inten => subst t; rfl
  | start _ hfree | startBad _ hfree | clear _ hfree | reg _ hfree | mem _ hfree =>
    exact absurd (hb.symm.trans hfree) (by decide)

/-- An engine step writes no byte outside RAW and ENC. -/
theorem EngineCase.read_of_not_output {s t : State} (hc : EngineCase s t) {a : Nat} (ha : outputAddr a = false) :
    t.mem.read a = s.mem.read a := by
  cases hc with
  | digestB | digestA | dp | ds | round => subst t; rfl
  | encode _ h =>
    have hraw : s.digestAReg.length ≤ 64 := s.length_digestAReg ▸ digestLen_le s.variant
    have henc : (encodeDigest s.variant s.digestAReg).length ≤ 88 :=
      length_encodeDigest s.variant s.digestAReg ▸ encodedLen_le s.variant
    have hout : ¬ (0x080 ≤ a ∧ a < 0x118) := by rw [← outputAddr_iff, ha]; decide
    subst t
    simp only [Memory.read_writeBytes, Config.rawBase, Config.encBase]
    rw [if_neg (by omega), if_neg (by omega)]

theorem not_outputAddr_of_inputAddr {pw : PwSize} {a : Nat} (h : inputAddr pw a = true) : outputAddr a = false := by
  rw [← Bool.not_eq_true, outputAddr_iff]
  simp only [inputAddr, Bool.or_eq_true, Bool.and_eq_true, decide_eq_true_eq] at h
  omega

/-- Settles O51: while BUSY a host transaction changes no input, and the engine writes registers and output bytes
alone. -/
theorem inputsAreFrozenWhileBusy : Obligations.InputsAreFrozenWhileBusy := by
  intro s t hb hno hstep
  rcases step_cases s t hstep with ⟨rest, hev, -⟩ | ⟨packet, rest, i, -, -, -, hf, he⟩ |
    ⟨rest, -, ⟨hfree, -⟩ | ⟨i, hi, he⟩⟩
  · exact absurd ⟨rest, hev⟩ hno
  · rw [(host_cases _ t i hf he).frame_of_busy hb]
    exact ⟨rfl, rfl, rfl, rfl, fun _ _ => rfl⟩
  · exact absurd (hb.symm.trans hfree) (by decide)
  · have hc := engine_cases { s with events := rest } t i hi he
    have hmem (a : Nat) (ha : inputAddr s.pwSize a = true) : t.mem.read a = s.mem.read a :=
      hc.read_of_not_output (not_outputAddr_of_inputAddr ha)
    rw [hc.frame]
    exact ⟨rfl, rfl, rfl, rfl, hmem⟩

end Sys2Proof.Machine
end

section
/-! SUPPORT. The statements about the sequencer (46_sequencer.md): what each engine step computes, and that only commands
and reset leave a quiescent phase. -/

namespace Sys2Proof.Machine

/-! ### The lengths of digests and of the sequences cut from them (40_digest_engine.md R100, 42_core_algorithm.md R133) -/

theorem digestLen_pos (v : Word) : 0 < digestLen v := by
  rw [digestLen]
  split_ifs <;> omega

@[simp] theorem length_digest (v : Word) (m : List Byte) : (digest v m).length = digestLen v := by
  have hle := digestLen_le v
  rw [digest]
  split_ifs with h5 h6
  · simp [digestLen, h5, length_sha256]
  · simp [digestLen, h6, length_sha512]
  · simpa using hle

@[simp] theorem length_expandToLength_digest (v : Word) (m : List Byte) (n : Nat) :
    (expandToLength (digest v m) n).length = n :=
  length_expandToLength (by rw [length_digest]; exact digestLen_pos v) n

/-! ### An internal register after a load (10_state.md R41-R44) -/

/-- A load leaves the register's bytes past those it was given. -/
theorem Memory.read_load_of_length_le (m : Memory) (width : Nat) {bs : List Byte} {k : Nat} (hk : bs.length ≤ k) :
    (m.load width bs).read k = m.read k := by
  rw [Memory.read_load, if_neg (by omega)]

theorem Memory.read_load_digest (m : Memory) (width : Nat) {v : Word} {x : List Byte} {k : Nat}
    (hk : digestLen v ≤ k) : (m.load width (digest v x)).read k = m.read k :=
  m.read_load_of_length_le width ((length_digest v x).trans_le hk)

theorem Memory.read_load_expandToLength_digest (m : Memory) (width : Nat) {v : Word} {x : List Byte} {n k : Nat}
    (hk : n ≤ k) : (m.load width (expandToLength (digest v x) n)).read k = m.read k :=
  m.read_load_of_length_le width ((length_expandToLength_digest v x n).trans_le hk)

/-- A digest loaded into `int.DB` or `int.DA` is read back whole, for the variant it was computed under. -/
theorem Memory.take_bytes_load_digest (m : Memory) (v : Word) (x : List Byte) :
    ((m.load Config.digestRegSize (digest v x)).bytes 0 Config.digestRegSize).take (digestLen v) = digest v x :=
  m.take_bytes_load _ _ _ (length_digest v x) (digestLen_le v)

/-- A digest expanded to `n` bytes is read back whole from a register it fits. -/
theorem Memory.take_bytes_load_expandToLength_digest (m : Memory) (v : Word) (x : List Byte) {width n : Nat}
    (hn : n ≤ width) :
    ((m.load width (expandToLength (digest v x) n)).bytes 0 width).take n = expandToLength (digest v x) n :=
  m.take_bytes_load _ _ _ (length_expandToLength_digest v x n) hn

/-! ### The engine's steps (46_sequencer.md R231-R236) -/

theorem exec_seqDigestB (s : State) :
    exec .seqDigestB s = .next { s with
      db := s.db.load Config.digestRegSize (digest s.variant (s.password ++ s.salt ++ s.password))
      acc := [], phase := .digestA } := by
  simp [exec, execSeqDigestB, State.hashParts_eq, digestBParts]

theorem exec_seqDigestA (s : State) :
    exec .seqDigestA s = .next { s with
      da := s.da.load Config.digestRegSize (digest s.variant
        (s.password ++ s.salt ++ expandToLength s.digestBReg s.pwlen.toNat ++
          altSeq s.pwlen.toNat s.digestBReg s.password))
      acc := [], phase := .dp } := by
  simp [exec, execSeqDigestA, State.hashParts_eq, digestAParts]

theorem exec_seqDp (s : State) :
    exec .seqDp s = .next { s with
      pp := s.pp.load s.pwSize.bytes (expandToLength
        (digest s.variant (List.replicate s.pwlen.toNat s.password).flatten) s.pwlen.toNat)
      acc := [], phase := .ds } := by
  simp [exec, execSeqDp, State.hashParts_eq, dpParts, repeatBytes]

theorem exec_seqDs (s : State) :
    exec .seqDs s = .next { s with
      sp := s.sp.load Config.spSize (expandToLength
        (digest s.variant (List.replicate (16 + (s.da.read 0).toNat) s.salt).flatten) s.saltlen.toNat)
      acc := [], phase := .round } := by
  simp [exec, execSeqDs, State.hashParts_eq, dsParts, repeatBytes]

theorem exec_seqRound (s : State) :
    exec .seqRound s = .next { s with
      da := s.da.load Config.digestRegSize
        (digest s.variant (roundMessage s.roundidx.toNat s.digestAReg s.ppReg s.spReg))
      acc := [], roundidx := BitVec.ofNat 32 (s.roundidx.toNat + 1)
      phase := if s.roundidx.toNat + 1 = s.rounds.toNat then .encode else .round } := by
  simp only [exec, execSeqRound, State.hashParts_eq, roundMessage]

theorem exec_seqEncode (s : State) :
    exec .seqEncode s = .next { s with
      mem := (s.mem.writeBytes 0x080 s.digestAReg).writeBytes 0x0C0 (encodeDigest s.variant s.digestAReg)
      rawlen := BitVec.ofNat 32 (digestLen s.variant), enclen := BitVec.ofNat 32 (encodedLen s.variant)
      db := [], da := [], pp := [], sp := [], acc := [], phase := .done } := rfl

/-- Settles O26. -/
theorem seqDigestBComputesDigestB : Obligations.SeqDigestBComputesDigestB := fun s =>
  ⟨_, exec_seqDigestB s, s.db.take_bytes_load_digest _ _, fun _ => s.db.read_load_digest _, rfl⟩

/-- Settles O27. -/
theorem seqDigestAComputesDigestA : Obligations.SeqDigestAComputesDigestA := fun s =>
  ⟨_, exec_seqDigestA s, s.da.take_bytes_load_digest _ _, fun _ => s.da.read_load_digest _, rfl⟩

/-- Settles O28. -/
theorem seqDpComputesThePasswordSequence : Obligations.SeqDpComputesThePasswordSequence := fun s =>
  ⟨_, exec_seqDp s, fun hfits => s.pp.take_bytes_load_expandToLength_digest _ _ hfits,
    fun _ => s.pp.read_load_expandToLength_digest _, rfl⟩

/-- Settles O29. -/
theorem seqDsComputesTheSaltSequence : Obligations.SeqDsComputesTheSaltSequence := fun s =>
  ⟨_, exec_seqDs s, fun hfits => s.sp.take_bytes_load_expandToLength_digest _ _ hfits,
    fun _ => s.sp.read_load_expandToLength_digest _, rfl⟩

/-- ROUNDIDX below a 32-bit ROUNDS counts up without wrapping. -/
theorem toNat_ofNat_succ_of_lt {i r : Word} (h : i.toNat < r.toNat) :
    (BitVec.ofNat 32 (i.toNat + 1)).toNat = i.toNat + 1 := by
  rw [BitVec.toNat_ofNat]
  omega

/-- Settles O30. -/
theorem seqRoundMixesOneRound : Obligations.SeqRoundMixesOneRound := fun s =>
  ⟨_, exec_seqRound s, s.da.take_bytes_load_digest _ _, fun _ => s.da.read_load_digest _, toNat_ofNat_succ_of_lt,
    fun hlast => if_pos hlast, fun hmore => if_neg hmore, rfl⟩

/-- Both lengths of a variant fit a register (10_state.md R33, R34). -/
theorem toNat_ofNat_lengths (v : Word) :
    (BitVec.ofNat 32 (digestLen v)).toNat = digestLen v ∧ (BitVec.ofNat 32 (encodedLen v)).toNat = encodedLen v := by
  have hraw : digestLen v ≤ 64 := digestLen_le v
  have henc : encodedLen v ≤ 88 := encodedLen_le v
  simp only [BitVec.toNat_ofNat]
  omega

/-- Settles O31: RAW ends where ENC begins, so neither write meets the other. -/
theorem seqEncodePublishesTheResult : Obligations.SeqEncodePublishesTheResult := by
  intro s
  have hraw : digestLen s.variant ≤ 64 := digestLen_le s.variant
  obtain ⟨hrawlen, henclen⟩ := toNat_ofNat_lengths s.variant
  refine ⟨_, exec_seqEncode s, fun k hk => ?_, fun k hk => ?_, fun a hnraw hnenc => ?_, hrawlen, henclen, rfl⟩
  · rw [Memory.read_writeBytes, if_neg (by omega), Memory.read_writeBytes, s.length_digestAReg, if_pos (by omega),
      Nat.add_sub_cancel_left]
  · rw [Memory.read_writeBytes, length_encodeDigest, if_pos (by omega), Nat.add_sub_cancel_left]
  · rw [Memory.read_writeBytes, length_encodeDigest, if_neg hnenc, Memory.read_writeBytes, s.length_digestAReg,
      if_neg hnraw]

/-! ### Quiescence (46_sequencer.md R237) -/

theorem State.fetchEngine_of_not_busy {s : State} (hb : s.busy = false) : s.fetchEngine = none := by
  rw [State.busy] at hb
  cases hp : s.phase with
  | idle | done | error => rw [State.fetchEngine, hp]; rfl
  | digestB | digestA | dp | ds | round | encode => rw [hp] at hb; cases hb

/-- Outside BUSY, a host transaction that changes the phase is a START or a CLEAR: ABORT needs BUSY. -/
theorem HostCase.isStart_or_isClear {s t : State} {i : Instr} (hc : HostCase s i t) (hb : s.busy = false)
    (hne : t.phase ≠ s.phase) : i.isStart ∨ i.isClear := by
  cases hc with
  | start hi | startBad hi => exact .inl hi
  | clear hi => exact .inr hi
  | abort _ hbusy => exact absurd (hb.symm.trans hbusy) (by decide)
  | same | cmderr | werr | inten | reg | mem => subst t; exact absurd rfl hne

/-- Settles O49: outside BUSY the engine's move leaves the state, so a phase that changed was changed by reset or by the
host. -/
theorem onlyCommandsLeaveAQuiescentPhase : Obligations.OnlyCommandsLeaveAQuiescentPhase := by
  refine ⟨fun _ => State.fetchEngine_of_not_busy, fun s t hb hstep hne => ?_⟩
  rcases step_cases s t hstep with ⟨rest, hev, -⟩ | ⟨packet, rest, i, -, -, hnext, hf, he⟩ |
    ⟨rest, -, ⟨-, rfl⟩ | ⟨i, hi, -⟩⟩
  · exact .inl ⟨rest, hev⟩
  · exact .inr ⟨i, hnext, (host_cases _ t i hf he).isStart_or_isClear hb hne⟩
  · exact absurd rfl hne
  · rw [State.fetchEngine_of_not_busy hb] at hi
    cases hi

end Sys2Proof.Machine
end

section
/-! SUPPORT. The statements about whole runs (46_sequencer.md R238-R240). Three things are kept apart: what every engine step
of a run finds and leaves (`State.RunOK`), how many of the `r + 5` steps are behind it (`State.position`), and what the
internal registers hold by then (`State.Computed`). -/

namespace Sys2Proof.Machine

/-! ### What a run leaves alone (70_reset_and_hazards.md R284) -/

/-- `t` has ERRCODE and the inputs of `s`: the input registers, PWMAX and every byte outside RAW and ENC. -/
structure State.InputsKept (s t : State) : Prop where
  variant : t.variant = s.variant
  rounds : t.rounds = s.rounds
  pwlen : t.pwlen = s.pwlen
  saltlen : t.saltlen = s.saltlen
  pwSize : t.pwSize = s.pwSize
  errcode : t.errcode = s.errcode
  mem : ∀ a, outputAddr a = false → t.mem.read a = s.mem.read a

namespace State.InputsKept

variable {s t u : State}

theorem refl (s : State) : s.InputsKept s := ⟨rfl, rfl, rfl, rfl, rfl, rfl, fun _ _ => rfl⟩

theorem trans (h : s.InputsKept t) (h' : t.InputsKept u) : s.InputsKept u where
  variant := h'.variant.trans h.variant
  rounds := h'.rounds.trans h.rounds
  pwlen := h'.pwlen.trans h.pwlen
  saltlen := h'.saltlen.trans h.saltlen
  pwSize := h'.pwSize.trans h.pwSize
  errcode := h'.errcode.trans h.errcode
  mem := fun a ha => (h'.mem a ha).trans (h.mem a ha)

theorem bytes (h : s.InputsKept t) {base n : Nat} (hn : base + n ≤ 0x080 ∨ 0x118 ≤ base) :
    t.mem.bytes base n = s.mem.bytes base n :=
  Memory.bytes_congr _ _ base n fun a hl hu => h.mem a (by rw [← Bool.not_eq_true, outputAddr_iff]; omega)

theorem password (h : s.InputsKept t) : t.password = s.password := by
  rw [State.password, State.pwBuffer, h.pwlen, h.pwSize, h.bytes (.inr (by decide))]
  rfl

theorem salt (h : s.InputsKept t) : t.salt = s.salt := by
  rw [State.salt, State.saltBuffer, h.saltlen, h.bytes (.inl (by decide))]
  rfl

theorem engine (hc : EngineCase s t) : s.InputsKept t where
  variant := by rw [hc.frame]
  rounds := by rw [hc.frame]
  pwlen := by rw [hc.frame]
  saltlen := by rw [hc.frame]
  pwSize := by rw [hc.frame]
  errcode := by rw [hc.frame]
  mem := fun _ => hc.read_of_not_output

end State.InputsKept

/-! ### A state in a run, and its place there (46_sequencer.md R240) -/

/-- A BUSY state, or the DONE it ends in, with no event scheduled. Of the phase invariants the accumulator's is left out:
every engine step empties it before it hashes (40_digest_engine.md R103). -/
structure State.RunOK (s : State) : Prop where
  phaseOK : { s with acc := [] }.PhaseOK
  started : s.busy = true ∨ s.phase = .done
  quiet : s.events = []

/-- How many of a run's `r + 5` engine steps are behind the state. -/
def State.position (s : State) : Nat :=
  match s.phase with
  | .idle | .error | .digestB => 0
  | .digestA => 1
  | .dp => 2
  | .ds => 3
  | .round => s.roundidx.toNat + 4
  | .encode => s.rounds.toNat + 4
  | .done => s.rounds.toNat + 5

theorem State.position_of_done {s : State} (hp : s.phase = .done) : s.position = s.rounds.toNat + 5 := by
  rw [State.position, hp]

namespace State.RunOK

variable {s t : State}

theorem legal (h : s.RunOK) (hb : s.busy = true) : s.Legal := { h.phaseOK.inputs_legal hb with }

theorem outputs_zero (h : s.RunOK) (hb : s.busy = true) : ∀ a, outputAddr a = true → s.mem.read a = 0 :=
  (h.phaseOK.outputs_zero (PhaseOK.ne_done_of_busy hb)).1

theorem before_rounds (h : s.RunOK)
    (hp : s.phase = .digestB ∨ s.phase = .digestA ∨ s.phase = .dp ∨ s.phase = .ds) : s.roundidx = 0 :=
  h.phaseOK.before_rounds hp

theorem round_index (h : s.RunOK) (hp : s.phase = .round) : s.roundidx.toNat < s.rounds.toNat := h.phaseOK.round_index hp

theorem encode_index (h : s.RunOK) (hp : s.phase = .encode) : s.roundidx = s.rounds := h.phaseOK.encode_index hp

theorem position_lt (h : s.RunOK) (hb : s.busy = true) : s.position < s.rounds.toNat + 5 := by
  rw [State.busy] at hb
  rw [State.position]
  cases hp : s.phase with
  | round => exact Nat.add_lt_add_right (Nat.lt_succ_of_lt (h.round_index hp)) 4
  | digestB | digestA | dp | ds | encode => simp only; omega
  | idle | done | error => rw [hp] at hb; cases hb

theorem busy_of_position_lt (h : s.RunOK) (hlt : s.position < s.rounds.toNat + 5) : s.busy = true :=
  h.started.resolve_right fun hp => hlt.ne (State.position_of_done hp)

theorem done_of_le_position (h : s.RunOK) (hle : s.rounds.toNat + 5 ≤ s.position) : s.phase = .done :=
  h.started.resolve_left fun hb => (h.position_lt hb).not_ge hle

/-- From one BUSY phase of a run to another; ROUNDIDX must be what 10_state.md R32 and R50 ask of the new phase. -/
theorem advance (h : s.RunOK) (hb : s.busy = true) (db da pp sp : Memory) (n : Word) (ph : Phase)
    (hph : ph.busy = true)
    (hbefore : ph = .digestB ∨ ph = .digestA ∨ ph = .dp ∨ ph = .ds → n = 0)
    (hround : ph = .round → n.toNat < s.rounds.toNat)
    (hencode : ph = .encode → n = s.rounds) :
    { s with db := db, da := da, pp := pp, sp := sp, acc := [], roundidx := n, phase := ph }.RunOK :=
  ⟨h.phaseOK.advance hb db da pp sp n ph hph hbefore hround hencode, .inl hph, h.quiet⟩

/-- An engine step keeps the run going and takes it one step further. -/
theorem engine (h : s.RunOK) (hc : EngineCase s t) : t.RunOK ∧ t.position = s.position + 1 := by
  have hb := hc.busy
  cases hc with
  | digestB hp bs ht =>
    subst ht
    exact ⟨h.advance hb _ _ _ _ _ .digestA rfl (fun _ => h.before_rounds (.inl hp)) nofun nofun,
      by simp [State.position, hp]⟩
  | digestA hp bs ht =>
    subst ht
    exact ⟨h.advance hb _ _ _ _ _ .dp rfl (fun _ => h.before_rounds (.inr (.inl hp))) nofun nofun,
      by simp [State.position, hp]⟩
  | dp hp bs ht =>
    subst ht
    exact ⟨h.advance hb _ _ _ _ _ .ds rfl (fun _ => h.before_rounds (.inr (.inr (.inl hp)))) nofun nofun,
      by simp [State.position, hp]⟩
  | ds hp bs ht =>
    subst ht
    have hidx := h.before_rounds (.inr (.inr (.inr hp)))
    have hrounds := (h.legal hb).rounds.1
    exact ⟨h.advance hb _ _ _ _ _ .round rfl nofun (fun _ => by simp [hidx]; omega) nofun,
      by simp [State.position, hp, hidx]⟩
  | round hp bs ht =>
    subst ht
    have hlt := h.round_index hp
    have hidx := toNat_ofNat_succ_of_lt hlt
    by_cases hlast : s.roundidx.toNat + 1 = s.rounds.toNat
    · rw [if_pos hlast]
      exact ⟨h.advance hb _ _ _ _ _ .encode rfl nofun nofun fun _ => BitVec.eq_of_toNat_eq (hidx.trans hlast),
        by simp only [State.position, hp]; omega⟩
    · rw [if_neg hlast]
      exact ⟨h.advance hb _ _ _ _ _ .round rfl nofun (fun _ => by omega) nofun,
        by simp only [State.position, hp]; omega⟩
  | encode hp ht =>
    subst ht
    exact ⟨⟨.of_not_busy rfl rfl ⟨rfl, rfl, rfl, rfl⟩ fun hd => absurd rfl hd, .inr rfl, h.quiet⟩,
      by simp [State.position, hp]⟩

end State.RunOK

/-! ### What the registers hold in a run (42_core_algorithm.md R131-R137) -/

/-- Digest A of the inputs. -/
def coreA (v : Word) (p s : List Byte) : List Byte := digestA v p s (digestB v p s)

/-- The Core Algorithm's digest after `i` rounds. -/
def coreAfter (v : Word) (p s : List Byte) (i : Nat) : List Byte :=
  roundDigest v (coreA v p s) (expandedP v p) (expandedS v s (coreA v p s)) i

theorem coreDigest_eq_coreAfter (v : Word) (p s : List Byte) (r : Nat) : coreDigest v p s r = coreAfter v p s r := rfl

/-- RAW, ENC, their lengths and ROUNDIDX as a finished run leaves them, the internals wiped. -/
structure State.Published (s : State) (d : List Byte) : Prop where
  roundidx : s.roundidx = s.rounds
  raw : s.rawBuffer = d ++ List.replicate (64 - digestLen s.variant) 0
  enc : s.encBuffer = encodeDigest s.variant d ++ List.replicate (88 - encodedLen s.variant) 0
  rawlen : s.rawlen.toNat = digestLen s.variant
  enclen : s.enclen.toNat = encodedLen s.variant
  internals : s.db = [] ∧ s.da = [] ∧ s.pp = [] ∧ s.sp = [] ∧ s.acc = []

/-- The registers that later steps of the run read hold what the Core Algorithm computes from the inputs. -/
def State.Computed (s : State) : Prop :=
  match s.phase with
  | .idle | .error | .digestB => True
  | .digestA => s.digestBReg = digestB s.variant s.password s.salt
  | .dp => s.digestAReg = coreA s.variant s.password s.salt
  | .ds => s.digestAReg = coreA s.variant s.password s.salt ∧ s.ppReg = expandedP s.variant s.password
  | .round | .encode =>
    s.digestAReg = coreAfter s.variant s.password s.salt s.roundidx.toNat ∧
      s.ppReg = expandedP s.variant s.password ∧
      s.spReg = expandedS s.variant s.salt (coreA s.variant s.password s.salt)
  | .done => s.Published (coreDigest s.variant s.password s.salt s.rounds.toNat)

theorem State.length_password {s : State} (h : s.passwordFits) : s.password.length = s.pwlen.toNat := by
  simpa [State.password, State.pwBuffer, State.passwordFits] using h

/-- `A[0]` is byte 0 of `int.DA`. -/
theorem State.getD_digestAReg_zero (s : State) : s.digestAReg.getD 0 0 = s.da.read 0 := by
  have hpos := digestLen_pos s.variant
  simp [State.digestAReg, State.len, hpos, Memory.bytes]

theorem digestB_eq (v : Word) (p s : List Byte) : digestB v p s = digest v (p ++ s ++ p) := by
  simp [digestB, digestBParts]

theorem digestA_eq (v : Word) (p s b : List Byte) :
    digestA v p s b = digest v (p ++ s ++ expandToLength b p.length ++ altSeq p.length b p) := by
  simp [digestA, digestAParts]

theorem expandedP_eq (v : Word) (p : List Byte) :
    expandedP v p = expandToLength (digest v (List.replicate p.length p).flatten) p.length := by
  simp [expandedP, dpParts, repeatBytes]

theorem expandedS_eq (v : Word) (s a : List Byte) :
    expandedS v s a = expandToLength (digest v (List.replicate (16 + (a.getD 0 0).toNat) s).flatten) s.length := by
  simp [expandedS, dsParts, repeatBytes]

/-- SEQ_ENCODE over zero outputs publishes the digest in `int.DA`. -/
theorem State.published_of_exec_seqEncode {s t : State} (hz : ∀ a, outputAddr a = true → s.mem.read a = 0)
    (hidx : s.roundidx = s.rounds) (he : exec .seqEncode s = .next t) : t.phase = .done ∧ t.Published s.digestAReg := by
  obtain ⟨hrawlen, henclen⟩ := toNat_ofNat_lengths s.variant
  have ht := Host.Outcome.next.inj ((exec_seqEncode s).symm.trans he)
  obtain ⟨hraw, henc⟩ := State.buffers_of_writeBytes s.digestAReg (encodeDigest s.variant s.digestAReg)
    (by simpa using digestLen_le s.variant) (by simpa using encodedLen_le s.variant) hz (congrArg State.mem ht.symm)
  rw [s.length_digestAReg] at hraw
  rw [length_encodeDigest] at henc
  subst ht
  exact ⟨rfl, hidx, hraw, henc, hrawlen, henclen, rfl, rfl, rfl, rfl, rfl⟩

namespace State.Computed

variable {s t : State}

theorem seqDigestB (he : exec .seqDigestB s = .next t) : t.Computed := by
  obtain rfl := Host.Outcome.next.inj ((exec_seqDigestB s).symm.trans he)
  exact (s.db.take_bytes_load_digest _ _).trans (digestB_eq _ _ _).symm

theorem seqDigestA (hl : s.Legal) (hb : s.digestBReg = digestB s.variant s.password s.salt)
    (he : exec .seqDigestA s = .next t) : t.Computed := by
  obtain rfl := Host.Outcome.next.inj ((exec_seqDigestA s).symm.trans he)
  refine (s.da.take_bytes_load_digest _ _).trans ?_
  rw [hb, ← State.length_password hl.password, ← digestA_eq]
  rfl

theorem seqDp (hl : s.Legal) (ha : s.digestAReg = coreA s.variant s.password s.salt)
    (he : exec .seqDp s = .next t) : t.Computed := by
  obtain rfl := Host.Outcome.next.inj ((exec_seqDp s).symm.trans he)
  refine ⟨ha, (s.pp.take_bytes_load_expandToLength_digest _ _ hl.password).trans ?_⟩
  rw [← State.length_password hl.password, ← expandedP_eq]
  rfl

theorem seqDs (hl : s.Legal) (hidx : s.roundidx = 0) (ha : s.digestAReg = coreA s.variant s.password s.salt)
    (hp : s.ppReg = expandedP s.variant s.password) (he : exec .seqDs s = .next t) : t.Computed := by
  obtain rfl := Host.Outcome.next.inj ((exec_seqDs s).symm.trans he)
  refine ⟨?_, hp, (s.sp.take_bytes_load_expandToLength_digest _ _ hl.saltLen.2).trans ?_⟩
  · simp only [hidx]
    exact ha
  · rw [← s.length_salt hl.saltLen.2, ← s.getD_digestAReg_zero, ← expandedS_eq, ha]
    rfl

theorem seqRound (hidx : s.roundidx.toNat < s.rounds.toNat)
    (ha : s.digestAReg = coreAfter s.variant s.password s.salt s.roundidx.toNat)
    (hp : s.ppReg = expandedP s.variant s.password)
    (hs : s.spReg = expandedS s.variant s.salt (coreA s.variant s.password s.salt))
    (he : exec .seqRound s = .next t) : t.Computed := by
  obtain rfl := Host.Outcome.next.inj ((exec_seqRound s).symm.trans he)
  have hnext :
      ((s.da.load Config.digestRegSize (digest s.variant
        (roundMessage s.roundidx.toNat s.digestAReg s.ppReg s.spReg))).bytes 0 Config.digestRegSize).take
          (digestLen s.variant) =
        coreAfter s.variant s.password s.salt (BitVec.ofNat 32 (s.roundidx.toNat + 1)).toNat := by
    rw [Memory.take_bytes_load_digest, toNat_ofNat_succ_of_lt hidx, ha, hp, hs]
    rfl
  split_ifs
  · exact ⟨hnext, hp, hs⟩
  · exact ⟨hnext, hp, hs⟩

theorem seqEncode (hz : ∀ a, outputAddr a = true → s.mem.read a = 0) (hidx : s.roundidx = s.rounds)
    (ha : s.digestAReg = coreAfter s.variant s.password s.salt s.roundidx.toNat) (hk : s.InputsKept t)
    (he : exec .seqEncode s = .next t) : t.Computed := by
  obtain ⟨hph, hpub⟩ := State.published_of_exec_seqEncode hz hidx he
  simp only [State.Computed, hph, hk.variant, hk.rounds, hk.password, hk.salt]
  rwa [coreDigest_eq_coreAfter, ← hidx, ← ha]

/-- Each engine step of a run computes its part of the Core Algorithm. -/
theorem engine {i : Instr} (h : s.Computed) (hrun : s.RunOK) (hi : s.fetchEngine = some i)
    (he : exec i s = .next t) : t.Computed := by
  have hc := engine_cases s t i hi he
  have hl := hrun.legal hc.busy
  rcases s.fetchEngine_some i hi with ⟨hp, rfl⟩ | ⟨hp, rfl⟩ | ⟨hp, rfl⟩ | ⟨hp, rfl⟩ | ⟨hp, rfl⟩ | ⟨hp, rfl⟩ <;>
    simp only [State.Computed, hp] at h
  · exact seqDigestB he
  · exact seqDigestA hl h he
  · exact seqDp hl h he
  · exact seqDs hl (hrun.before_rounds (.inr (.inr (.inr hp)))) h.1 h.2 he
  · obtain ⟨ha, hp', hs'⟩ := h
    exact seqRound (hrun.round_index hp) ha hp' hs' he
  · exact seqEncode (hrun.outputs_zero hc.busy) (hrun.encode_index hp) h.1 (.engine hc) he

end State.Computed

/-! ### Runs of the engine alone (46_sequencer.md R238, R240) -/

/-- `n` engine steps of a run lead from `s` to `t`. -/
structure State.Advanced (n : Nat) (s t : State) : Prop where
  runOK : t.RunOK
  position : t.position = s.position + n
  inputs : s.InputsKept t
  computed : s.Computed → t.Computed

/-- With no event scheduled a BUSY state takes the engine step of its phase. -/
theorem State.RunOK.step {s : State} (h : s.RunOK) (hb : s.busy = true) : ∃ t, step s = .next t ∧ s.Advanced 1 t := by
  obtain ⟨i, hi⟩ := State.fetchEngine_of_busy hb
  obtain ⟨t, he⟩ := exec_answers i s
  have hc := engine_cases s t i hi he
  obtain ⟨hrun, hpos⟩ := h.engine hc
  refine ⟨t, ?_, hrun, hpos, .engine hc, fun hcomp => hcomp.engine h hi he⟩
  rw [step_of_no_event h.quiet, engineMove_of_fetchEngine hi, he]

/-- The engine alone can take as many steps as are left of the run. -/
theorem State.RunOK.runSteps {s : State} (h : s.RunOK) {n : Nat} (hn : s.position + n ≤ s.rounds.toNat + 5) :
    ∃ t, runSteps n s = .next t ∧ s.Advanced n t := by
  induction n generalizing s with
  | zero => exact ⟨s, rfl, h, rfl, .refl s, id⟩
  | succ n ih =>
    obtain ⟨u, hstep, hu⟩ := h.step (h.busy_of_position_lt (by omega))
    obtain ⟨t, hrun, ht⟩ := ih hu.runOK (by rw [hu.position, hu.inputs.rounds]; omega)
    refine ⟨t, runSteps_succ_eq_next.mpr ⟨u, hstep, hrun⟩, ht.runOK, ?_, hu.inputs.trans ht.inputs,
      ht.computed ∘ hu.computed⟩
    rw [ht.position, hu.position]
    omega

/-- Settles O60: the steps left of the run lead to DONE. -/
theorem everyStartedComputationEnds : Obligations.EveryStartedComputationEnds := by
  intro s hinv hb hev
  have hrun : s.RunOK :=
    ⟨{ hinv.phaseOK with acc_empty := rfl, inputs_legal := fun hb => { hinv.phaseOK.inputs_legal hb with } },
      .inl hb, hev⟩
  have hlt := hrun.position_lt hb
  obtain ⟨t, ht, hadv⟩ := hrun.runSteps (n := s.rounds.toNat + 5 - s.position) (by omega)
  exact ⟨_, t, Nat.sub_le _ _, ht,
    hadv.runOK.done_of_le_position (by rw [hadv.position, hadv.inputs.rounds]; omega)⟩

/-! ### START and the run it begins (45_commands.md R211, R215) -/

/-- What START leaves on legal inputs, with no event after it. -/
def State.begun (s : State) : State :=
  { s.wipeOutputs with events := [], errcode := .none, phase := .digestB, response := .accepted }

/-- The bus write that carries START runs START. -/
theorem step_of_startWrite {s : State} {rest : List Event}
    (hev : s.events = .host (writePacket 0x000 4 0x00000001) :: rest) :
    step s = exec .start { s with events := rest } := by
  have hdec : decodeHost s.pwSize (writePacket 0x000 4 0x00000001) = .ok (.busWCmd 0x00000001) :=
    decodeHost_eq_ok_iff.mpr ⟨decode_writePacket s.pwSize 0x000 4 0x00000001, nofun⟩
  calc step s
    _ = hostMove (writePacket 0x000 4 0x00000001) { s with events := rest } := step_of_host hev
    _ = exec (.busWCmd 0x00000001) { s with events := rest } :=
      hostMove_of_decodeHost (s := { s with events := rest }) hdec
    _ = exec .start { s with events := rest } := exec_busWCmd _ _

theorem step_startWrite_of_legal {s : State} (hb : s.busy = false) (hl : s.Legal) :
    step { s with events := [.host (writePacket 0x000 4 0x00000001)] } = .next s.begun :=
  (step_of_startWrite rfl).trans (exec_start_of_legal (s := { s with events := [] }) hb { hl with })

namespace State.begun

variable {s t : State}

/-- START's state has a whole run before it. -/
theorem runOK (hl : s.Legal) : s.begun.RunOK where
  phaseOK := {
    acc_empty := rfl
    internals_zero := nofun
    outputs_zero := fun _ => ⟨s.read_wipeOutputs_of_output, rfl, rfl⟩
    before_rounds := fun _ => rfl
    round_index := nofun
    encode_index := nofun
    inputs_legal := fun _ => { hl.wipeOutputs with } }
  started := .inl rfl
  quiet := rfl

theorem inputsKept (s : State) : { s with errcode := .none }.InputsKept s.begun :=
  ⟨rfl, rfl, rfl, rfl, rfl, rfl, s.read_wipeOutputs_of_not_output⟩

theorem runSteps (hb : s.busy = false) (hl : s.Legal) {k : Nat} (hk : k ≤ s.rounds.toNat + 5) :
    ∃ t, runSteps (1 + k) { s with events := [.host (writePacket 0x000 4 0x00000001)] } = .next t ∧
      s.begun.Advanced k t := by
  obtain ⟨t, hrun, hadv⟩ := (runOK hl).runSteps (n := k) ((Nat.zero_add k).trans_le hk)
  rw [Nat.add_comm]
  exact ⟨t, runSteps_succ_eq_next.mpr ⟨s.begun, step_startWrite_of_legal hb hl, hrun⟩, hadv⟩

theorem position_of_advanced {k : Nat} (h : s.begun.Advanced k t) : t.position = k :=
  h.position.trans (Nat.zero_add k)

/-- At position `r + 5` the run is in DONE and has published the Core digest of its inputs. -/
theorem published_of_advanced (h : s.begun.Advanced (s.rounds.toNat + 5) t) :
    t.phase = .done ∧ t.Published (coreDigest s.variant s.password s.salt s.rounds.toNat) := by
  have hkept := (inputsKept s).trans h.inputs
  have hdone := h.runOK.done_of_le_position (by rw [position_of_advanced h, hkept.rounds])
  have hpub := h.computed trivial
  simp only [State.Computed, hdone, hkept.variant, hkept.password, hkept.salt, hkept.rounds] at hpub
  exact ⟨hdone, hpub⟩

end State.begun

/-- Settles O59: START begins a run at position 0, which is BUSY before position `r + 5` and has published there. -/
theorem startThenEngineStepsComputeTheHash : Obligations.StartThenEngineStepsComputeTheHash := by
  intro s hb hl _
  refine ⟨fun k hlt => ?_, ?_⟩
  · obtain ⟨t, hrun, hadv⟩ := State.begun.runSteps hb hl hlt.le
    refine ⟨t, hrun, hadv.runOK.busy_of_position_lt ?_⟩
    rw [State.begun.position_of_advanced hadv, hadv.inputs.rounds]
    exact hlt
  · obtain ⟨t, hrun, hadv⟩ := State.begun.runSteps hb hl le_rfl
    have hkept := (State.begun.inputsKept s).trans hadv.inputs
    obtain ⟨hdone, hidx, hraw, henc, hrawlen, henclen, hdb, hda, hpp, hsp, hacc⟩ :=
      State.begun.published_of_advanced hadv
    rw [hkept.rounds] at hidx
    rw [hkept.variant] at hraw henc hrawlen henclen
    exact ⟨t, hrun, hdone, hkept.errcode, hidx, hraw, henc, hrawlen, henclen, hdb, hda, hpp, hsp, hacc, hkept.variant,
      hkept.rounds, hkept.password, hkept.salt⟩

end Sys2Proof.Machine
end

section
/-! SUPPORT. The statements about errors, sticky bits and the interrupt (60_exceptions.md): that every instruction
answers and which packet alone stops a step, that the engine does nothing outside BUSY, who writes CMDERR and WERR, and
what the interrupt level is after each event that moves it. -/

namespace Sys2Proof.Machine

/-! ### No trap (60_exceptions.md R250, R252) -/

/-- Settles O45. -/
theorem everyInstructionAnswers : Obligations.EveryInstructionAnswers := exec_answers

/-- The engine never stops: it has a step, which answers, or none, and then the state stays. -/
theorem engineMove_answers (s : State) : ∃ t, engineMove s = .next t := by
  cases hi : s.fetchEngine with
  | none => exact ⟨s, by rw [engineMove, hi]⟩
  | some i =>
    obtain ⟨t, ht⟩ := exec_answers i s
    exact ⟨t, (engineMove_of_fetchEngine hi).trans ht⟩

/-- The host's move stops on a packet that does not decode, and on no other. -/
theorem hostMove_answers_or_refuses (packet : List Byte) (s : State) :
    (∃ t, hostMove packet s = .next t) ∨
      ∃ e, decodeHost s.pwSize packet = .error e ∧ hostMove packet s = .refused (.undecodable e) := by
  cases hd : decodeHost s.pwSize packet with
  | ok i =>
    obtain ⟨t, ht⟩ := exec_answers i s
    exact .inl ⟨t, (hostMove_of_decodeHost hd).trans ht⟩
  | error e => exact .inr ⟨e, rfl, by rw [hostMove, hd]⟩

theorem step_of_reset {s : State} {rest : List Event} (h : s.events = .reset :: rest) :
    step s = .next { State.resetAt s.pwSize with events := rest } := by
  rw [step, nextEvent, h]
  rfl

/-- Settles O46: of the four kinds of next event, only a host packet can stop the step, and then by not decoding. -/
theorem stepStopsOnlyAtAnUndecodablePacket : Obligations.StepStopsOnlyAtAnUndecodablePacket := by
  intro s
  cases hev : s.events with
  | nil => exact .inl (step_of_no_event hev ▸ engineMove_answers s)
  | cons ev rest =>
    cases ev with
    | engine => exact .inl (step_of_engine hev ▸ engineMove_answers _)
    | reset => exact .inl ⟨_, step_of_reset hev⟩
    | host packet =>
      rw [step_of_host hev]
      rcases hostMove_answers_or_refuses packet { s with events := rest } with hnext | ⟨e, hd, href⟩
      · exact .inl hnext
      · exact .inr ⟨packet, rest, e, rfl, hd, href⟩

/-! ### Quiescence (60_exceptions.md R268) -/

theorem engineMove_of_not_busy {s : State} (hb : s.busy = false) : engineMove s = .next s := by
  rw [engineMove, State.fetchEngine_of_not_busy hb]

/-- Settles O50: with or without an engine event, the step is the engine's move. -/
theorem engineEventsOutsideBusyDoNothing : Obligations.EngineEventsOutsideBusyDoNothing := fun s hb =>
  ⟨fun hev => (step_of_no_event hev).trans (engineMove_of_not_busy hb),
    fun rest hev => (step_of_engine hev).trans (engineMove_of_not_busy (s := { s with events := rest }) hb)⟩

/-! ### The sticky bits (60_exceptions.md R253, R254) -/

/-- A host transaction that changes CMDERR is a CLEAR outside BUSY, which clears it, or a command the block does not
take, which sets it. -/
theorem HostCase.cmderr_of_ne {s t : State} {i : Instr} (hc : HostCase s i t) (hne : t.cmderr ≠ s.cmderr) :
    (t.cmderr = false ∧ s.busy = false ∧ i.isClear) ∨
      (t.cmderr = true ∧ (i.isReserved ∨ (s.busy = true ∧ (i.isStart ∨ i.isClear)))) := by
  cases hc with
  | clear hi hb h => exact .inl ⟨by rw [h]; rfl, hb, hi⟩
  | cmderr hi h => exact .inr ⟨by rw [h], hi⟩
  | same | start | startBad | abort | werr | inten | reg | mem => subst t; exact absurd rfl hne

/-- A host transaction that changes WERR is a CLEAR outside BUSY, which clears it, or an input write while BUSY, which
sets it. -/
theorem HostCase.werr_of_ne {s t : State} {i : Instr} (hc : HostCase s i t) (hne : t.werr ≠ s.werr) :
    (t.werr = false ∧ s.busy = false ∧ i.isClear) ∨ (t.werr = true ∧ s.busy = true ∧ i.isInputWrite) := by
  cases hc with
  | clear hi hb h => exact .inl ⟨by rw [h]; rfl, hb, hi⟩
  | werr hi hb h => exact .inr ⟨by rw [h], hb, hi⟩
  | same | cmderr | start | startBad | abort | inten | reg | mem => subst t; exact absurd rfl hne

/-- A bit that no engine step writes, that reset clears, and that a host transaction changes only by a CLEAR outside
BUSY, which clears it, or by an instruction of `sets`, which sets it, is cleared and set by no other event. -/
theorem step_sticky {s t : State} (hstep : step s = .next t) (f : State → Bool) (sets : Instr → Prop)
    (events : ∀ s ev, f { s with events := ev } = f s) (engine : ∀ s t, EngineCase s t → f t = f s)
    (reset : ∀ pw ev, f { State.resetAt pw with events := ev } = false)
    (host : ∀ rest i, HostCase { s with events := rest } i t → f t ≠ f { s with events := rest } →
      (f t = false ∧ s.busy = false ∧ i.isClear) ∨ (f t = true ∧ sets i)) :
    (f s = true → f t = false → s.resetNext ∨ (s.busy = false ∧ ∃ i, s.hostNext = some i ∧ i.isClear)) ∧
      (f s = false → f t = true → ∃ i, s.hostNext = some i ∧ sets i) := by
  have changed (hne : f t ≠ f s) :
      (f t = false ∧ (s.resetNext ∨ (s.busy = false ∧ ∃ i, s.hostNext = some i ∧ i.isClear))) ∨
        (f t = true ∧ ∃ i, s.hostNext = some i ∧ sets i) := by
    rcases step_changes_cases f events engine hstep hne with ⟨rest, hev, rfl⟩ | ⟨rest, i, hnext, hc⟩
    · exact .inl ⟨reset _ _, .inl ⟨rest, hev⟩⟩
    · rcases host rest i hc ((events s rest).symm ▸ hne) with ⟨hval, hb, hi⟩ | ⟨hval, hi⟩
      · exact .inl ⟨hval, .inr ⟨hb, i, hnext, hi⟩⟩
      · exact .inr ⟨hval, i, hnext, hi⟩
  refine ⟨fun hs ht => ?_, fun hs ht => ?_⟩
  · exact ((changed (by simp [hs, ht])).resolve_right (by simp [ht])).2
  · exact ((changed (by simp [hs, ht])).resolve_left (by simp [ht])).2

/-- Settles O53: both bits are sticky, each with the instructions that set it. -/
theorem stickyBitsAreSetAndClearedAsListed : Obligations.StickyBitsAreSetAndClearedAsListed := by
  intro s t hstep
  obtain ⟨cmderr_cleared, cmderr_set⟩ := step_sticky hstep State.cmderr
    (fun i => i.isReserved ∨ (s.busy = true ∧ (i.isStart ∨ i.isClear)))
    (fun _ _ => rfl) (fun _ _ hc => by rw [hc.frame]) (fun _ _ => rfl) fun _ _ hc => hc.cmderr_of_ne
  obtain ⟨werr_cleared, werr_set⟩ := step_sticky hstep State.werr (fun i => s.busy = true ∧ i.isInputWrite)
    (fun _ _ => rfl) (fun _ _ hc => by rw [hc.frame]) (fun _ _ => rfl) fun _ _ hc => hc.werr_of_ne
  refine ⟨cmderr_cleared, werr_cleared, cmderr_set, fun hs ht => ?_⟩
  obtain ⟨i, hnext, hb, hi⟩ := werr_set hs ht
  exact ⟨hb, i, hnext, hi⟩

/-! ### The interrupt level (60_exceptions.md R256) -/

theorem State.irq_iff (s : State) : s.irq = true ↔ s.ie = true ∧ (s.phase = .done ∨ s.phase = .error) := by
  simp [State.irq]

/-- In DONE and ERROR the level is the enable bit. -/
theorem State.irq_eq_ie {s : State} (hp : s.phase = .done ∨ s.phase = .error) : s.irq = s.ie :=
  Bool.eq_iff_iff.mpr (s.irq_iff.trans (and_iff_left hp))

/-- Settles O25: each listed event but the INTEN write ends in DONE or ERROR, where the level is IE, or in another phase,
where it is 0. -/
theorem interruptFollowsEnableAndPhase : Obligations.InterruptFollowsEnableAndPhase := by
  obtain ⟨-, -, abort, -⟩ := abortEndsABusyRunOnly
  refine ⟨fun s => ⟨s.irq_iff, s.getLsbD_status 12 (by omega)⟩,
    fun s => ⟨_, exec_seqEncode s, State.irq_eq_ie (.inl rfl)⟩,
    fun s hb hl => ⟨_, exec_start_of_not_legal hb hl, State.irq_eq_ie (.inr rfl)⟩,
    fun s hb hl => ⟨_, exec_start_of_legal hb hl, Bool.and_false _⟩,
    fun s hb => ⟨_, abort s hb, State.irq_eq_ie (.inr rfl)⟩,
    fun s hb => ?clear,
    fun s data => ⟨_, exec_busWInten data s, State.irq_iff _⟩,
    fun s ⟨_, hev⟩ => ⟨_, step_of_reset hev, rfl⟩,
    fun s he hp hc hw => State.status_of_not_sticky hp he hc hw⟩
  case clear =>
    obtain ⟨-, -, clear⟩ := clearWipesAllButInten
    obtain ⟨t, ht, rfl, -⟩ := clear s hb
    exact ⟨_, ht, Bool.and_false _⟩

end Sys2Proof.Machine
end

section
/-! SUPPORT. The statements about reset and hazards (70_reset_and_hazards.md): what the reset event leaves in every phase,
and what either order of an ABORT and the last engine step leaves. -/

namespace Sys2Proof.Machine

/-! ### Reset in every phase (70_reset_and_hazards.md R280) -/

/-- Settles O2: the reset state has the listed values (R48), whichever state the event found. -/
theorem resetEventResetsEverything : Obligations.ResetEventResetsEverything := by
  intro s rest hev
  obtain ⟨-, reset⟩ := resetLeavesTheListedValues
  obtain ⟨-, -, -, hstatus, -⟩ := reset s.pwSize
  exact ⟨_, step_of_reset hev, rfl, hstatus, rfl, rfl⟩

/-! ### ABORT racing the last engine step (70_reset_and_hazards.md R285) -/

theorem runSteps_one_eq_next {s t : State} : runSteps 1 s = .next t ↔ step s = .next t := by
  rw [runSteps_succ_eq_next (n := 0)]
  simp [runSteps]

theorem runSteps_two_eq_next {s t : State} : runSteps 2 s = .next t ↔ ∃ u, step s = .next u ∧ step u = .next t := by
  simp only [runSteps_succ_eq_next (n := 1), runSteps_one_eq_next]

/-- A bus write to CMD runs the command of its data (45_commands.md R206). -/
theorem step_of_cmdWrite {s : State} {data : Word} {rest : List Event}
    (hev : s.events = .host (writePacket 0x000 4 data) :: rest) :
    step s = exec (decodeCmd data) { s with events := rest } := by
  have hdec : decodeHost s.pwSize (writePacket 0x000 4 data) = .ok (.busWCmd data) :=
    decodeHost_eq_ok_iff.mpr ⟨decode_writePacket s.pwSize 0x000 4 data, nofun⟩
  rw [step_of_host hev, hostMove_of_decodeHost (s := { s with events := rest }) hdec, exec_busWCmd]

/-- An ABORT in BUSY ends the run with ERRCODE 5, the outputs as they were (45_commands.md R212). -/
theorem step_abortWrite_of_busy {s : State} {rest : List Event}
    (hev : s.events = .host (writePacket 0x000 4 0x00000002) :: rest) (hb : s.busy = true) :
    step s = .next { s with
      errcode := .aborted, db := [], da := [], pp := [], sp := [], acc := [], phase := .error
      response := .accepted, events := rest } := by
  obtain ⟨hdec, -, abort, -⟩ := abortEndsABusyRunOnly
  rw [step_of_cmdWrite hev, hdec, abort { s with events := rest } hb]

/-- An ABORT outside BUSY is accepted and changes nothing (45_commands.md R212). -/
theorem step_abortWrite_of_not_busy {s : State} {rest : List Event}
    (hev : s.events = .host (writePacket 0x000 4 0x00000002) :: rest) (hb : s.busy = false) :
    step s = .next { s with events := rest, response := .accepted } := by
  obtain ⟨hdec, -, -, abort⟩ := abortEndsABusyRunOnly
  rw [step_of_cmdWrite hev, hdec, abort { s with events := rest } hb]

/-- An engine event outside BUSY is consumed and nothing else happens (46_sequencer.md R237). -/
theorem step_engine_of_not_busy {s : State} {rest : List Event} (hev : s.events = .engine :: rest)
    (hb : s.busy = false) : step s = .next { s with events := rest } := by
  rw [step_of_engine hev, engineMove, State.fetchEngine_of_not_busy (s := { s with events := rest }) hb]

/-- An engine event in ENCODE runs SEQ_ENCODE (46_sequencer.md R230). -/
theorem step_engine_of_encode {s : State} {rest : List Event} (hev : s.events = .engine :: rest)
    (hp : s.phase = .encode) : step s = exec .seqEncode { s with events := rest } := by
  have hfetch : State.fetchEngine { s with events := rest } = some .seqEncode :=
    State.fetchEngine_of_decodeSeq (by rw [hp]; rfl)
  rw [step_of_engine hev, engineMove_of_fetchEngine hfetch]

/-- ABORT first: ERROR over the outputs as they were, and the engine's move finds no step. -/
theorem runSteps_abort_then_engine {s : State} (hb : s.busy = true) :
    runSteps 2 { s with events := [.host (writePacket 0x000 4 0x00000002), .engine] } =
      .next { s with
        errcode := .aborted, db := [], da := [], pp := [], sp := [], acc := [], phase := .error
        response := .accepted, events := [] } :=
  runSteps_two_eq_next.mpr ⟨_, step_abortWrite_of_busy rfl hb, step_engine_of_not_busy rfl rfl⟩

/-- Settles O58: ABORT first leaves the zero outputs the invariant gives before DONE; SEQ_ENCODE first leaves DONE, where
ABORT does nothing. -/
theorem abortRacesTheLastStep : Obligations.AbortRacesTheLastStep := by
  intro s hinv hp
  refine ⟨?abortFirst, ?encodeFirst⟩
  case abortFirst =>
    have hb : s.busy = true := by rw [State.busy, hp]; rfl
    obtain ⟨hzero, -⟩ := hinv.phaseOK.outputs_zero (by simp [hp])
    exact ⟨_, runSteps_abort_then_engine hb, rfl, rfl, hzero⟩
  case encodeFirst =>
    have hexec := exec_seqEncode { s with events := [.host (writePacket 0x000 4 0x00000002)] }
    have hstep := (step_engine_of_encode
      (s := { s with events := [.engine, .host (writePacket 0x000 4 0x00000002)] }) rfl hp).trans hexec
    exact ⟨_, _, runSteps_one_eq_next.mpr hstep, hexec,
      runSteps_two_eq_next.mpr ⟨_, hstep, step_abortWrite_of_not_busy rfl rfl⟩, rfl, rfl⟩

end Sys2Proof.Machine
end
